-- ==== Sys2Proof/Word.lean ====
section
/-!
DEFINITION. The word types of the PIC10F200/204 (spec 00_scope.md R6, R7).
-/

namespace Sys2Proof

/-- A data value: W and every file register are 8 bits (R6, `DATA_BITS`). -/
abbrev Byte := BitVec 8

/-- A file register address (R6, `FILE_ADDR_BITS`). -/
abbrev FileAddr := BitVec 5

/-- A program memory address: the width of the program counter (R7, `PC_WIDTH`). -/
abbrev ProgAddr := BitVec 9

/-- An instruction word (R6, `INSTR_BITS`). -/
abbrev InstrWord := BitVec 12

end Sys2Proof
end

