-- ==== Sys2Proof/Syntax.lean ====
section
/-!
DEFINITION. The 33 instructions of TABLE 10-2, one constructor per row of opcode_table.json, in
the table's order (spec 30_encoding.md R100).
-/

namespace Sys2Proof

/-- The destination select `d` (R17, R98): 0 stores the result in W, 1 in file register f. -/
inductive Dest where
  | w
  | f
deriving DecidableEq, Repr

/-- An instruction with its operands. `f` is a 5-bit file address, `b` a bit number, `k` a
literal (R97). -/
inductive Instr where
  | addwf (f : FileAddr) (d : Dest)
  | andwf (f : FileAddr) (d : Dest)
  | clrf (f : FileAddr)
  | clrw
  | comf (f : FileAddr) (d : Dest)
  | decf (f : FileAddr) (d : Dest)
  | decfsz (f : FileAddr) (d : Dest)
  | incf (f : FileAddr) (d : Dest)
  | incfsz (f : FileAddr) (d : Dest)
  | iorwf (f : FileAddr) (d : Dest)
  | movf (f : FileAddr) (d : Dest)
  | movwf (f : FileAddr)
  | nop
  | rlf (f : FileAddr) (d : Dest)
  | rrf (f : FileAddr) (d : Dest)
  | subwf (f : FileAddr) (d : Dest)
  | swapf (f : FileAddr) (d : Dest)
  | xorwf (f : FileAddr) (d : Dest)
  | bcf (f : FileAddr) (b : BitVec 3)
  | bsf (f : FileAddr) (b : BitVec 3)
  | btfsc (f : FileAddr) (b : BitVec 3)
  | btfss (f : FileAddr) (b : BitVec 3)
  | andlw (k : Byte)
  | call (k : Byte)
  | clrwdt
  | goto (k : ProgAddr)
  | iorlw (k : Byte)
  | movlw (k : Byte)
  | option
  | retlw (k : Byte)
  | sleep
  /-- The operand is the 3-bit number of the port, of which only 6 is defined (R106). -/
  | tris (f : BitVec 3)
  | xorlw (k : Byte)
deriving DecidableEq, Repr

end Sys2Proof
end

