-- ==== Sys2Proof/WellFormed.lean ====
section
/-!
DEFINITION. Which instruction terms the instruction set has (spec 30_encoding.md R106, R117).
-/

namespace Sys2Proof

/-- Every operand value that fits its field is legal (R117, R138, R98), except that TRIS is
defined for port 6 alone (R106, R154). -/
def Instr.wellFormed : Instr → Bool
  | .addwf _ _ => true
  | .andwf _ _ => true
  | .clrf _ => true
  | .clrw => true
  | .comf _ _ => true
  | .decf _ _ => true
  | .decfsz _ _ => true
  | .incf _ _ => true
  | .incfsz _ _ => true
  | .iorwf _ _ => true
  | .movf _ _ => true
  | .movwf _ => true
  | .nop => true
  | .rlf _ _ => true
  | .rrf _ _ => true
  | .subwf _ _ => true
  | .swapf _ _ => true
  | .xorwf _ _ => true
  | .bcf _ _ => true
  | .bsf _ _ => true
  | .btfsc _ _ => true
  | .btfss _ _ => true
  | .andlw _ => true
  | .call _ => true
  | .clrwdt => true
  | .goto _ => true
  | .iorlw _ => true
  | .movlw _ => true
  | .option => true
  | .retlw _ => true
  | .sleep => true
  | .tris f => f == 6#3
  | .xorlw _ => true

end Sys2Proof
end

