-- ==== Sys2Proof/Decode.lean ====
section
/-!
DEFINITION. The decoder of spec 30_encoding.md R99, total on the 4096 words, and after it the
encoder, written from the patterns of R100.
-/

namespace Sys2Proof

/-- Why a word is no instruction. -/
inductive DecodeRefusal where
  /-- One of the 58 words no row of the opcode table matches (R104). -/
  | unassigned
deriving DecidableEq, Repr

/-- Bit 5 of a BYTE-format word (R97, R98). -/
def destField (i : InstrWord) : Dest :=
  if i.getLsbD 5 then .f else .w

/-- The words with `I[11:6] = 000000` and `d = 0` (R99): the control group. -/
def decodeControl (i : InstrWord) : Except DecodeRefusal Instr :=
  match (i.extractLsb' 0 5).toNat with
  | 0 => .ok .nop
  | 2 => .ok .option
  | 3 => .ok .sleep
  | 4 => .ok .clrwdt
  | 6 => .ok (.tris 6#3)
  | _ => .error .unassigned

/-- The words with `I[11:10] = 00` (R99), by the 6-bit OPCODE. -/
def decodeByte (i : InstrWord) : Except DecodeRefusal Instr :=
  let f := i.extractLsb' 0 5
  let d := destField i
  match (i.extractLsb' 6 6).toNat with
  | 0 => if i.getLsbD 5 then .ok (.movwf f) else decodeControl i
  | 1 => if i.getLsbD 5 then .ok (.clrf f) else if f = 0#5 then .ok .clrw else .error .unassigned
  | 2 => .ok (.subwf f d)
  | 3 => .ok (.decf f d)
  | 4 => .ok (.iorwf f d)
  | 5 => .ok (.andwf f d)
  | 6 => .ok (.xorwf f d)
  | 7 => .ok (.addwf f d)
  | 8 => .ok (.movf f d)
  | 9 => .ok (.comf f d)
  | 10 => .ok (.incf f d)
  | 11 => .ok (.decfsz f d)
  | 12 => .ok (.rrf f d)
  | 13 => .ok (.rlf f d)
  | 14 => .ok (.swapf f d)
  | _ => .ok (.incfsz f d)

/-- The decode algorithm of R99. -/
def decode (i : InstrWord) : Except DecodeRefusal Instr :=
  let f := i.extractLsb' 0 5
  let b := i.extractLsb' 5 3
  let k8 := i.extractLsb' 0 8
  match (i.extractLsb' 8 4).toNat with
  | 4 => .ok (.bcf f b)
  | 5 => .ok (.bsf f b)
  | 6 => .ok (.btfsc f b)
  | 7 => .ok (.btfss f b)
  | 8 => .ok (.retlw k8)
  | 9 => .ok (.call k8)
  | 10 => .ok (.goto (i.extractLsb' 0 9))
  | 11 => .ok (.goto (i.extractLsb' 0 9))
  | 12 => .ok (.movlw k8)
  | 13 => .ok (.iorlw k8)
  | 14 => .ok (.andlw k8)
  | 15 => .ok (.xorlw k8)
  | _ => decodeByte i

/-- The value of `d` in an encoding (R98). -/
def Dest.bit : Dest → BitVec 1
  | .w => 0#1
  | .f => 1#1

/-- The word of an instruction, each pattern as R100 writes it. -/
def encode : Instr → InstrWord
  | .addwf f d => 0b000111#6 ++ d.bit ++ f
  | .andwf f d => 0b000101#6 ++ d.bit ++ f
  | .clrf f => 0b0000011#7 ++ f
  | .clrw => 0b000001000000#12
  | .comf f d => 0b001001#6 ++ d.bit ++ f
  | .decf f d => 0b000011#6 ++ d.bit ++ f
  | .decfsz f d => 0b001011#6 ++ d.bit ++ f
  | .incf f d => 0b001010#6 ++ d.bit ++ f
  | .incfsz f d => 0b001111#6 ++ d.bit ++ f
  | .iorwf f d => 0b000100#6 ++ d.bit ++ f
  | .movf f d => 0b001000#6 ++ d.bit ++ f
  | .movwf f => 0b0000001#7 ++ f
  | .nop => 0b000000000000#12
  | .rlf f d => 0b001101#6 ++ d.bit ++ f
  | .rrf f d => 0b001100#6 ++ d.bit ++ f
  | .subwf f d => 0b000010#6 ++ d.bit ++ f
  | .swapf f d => 0b001110#6 ++ d.bit ++ f
  | .xorwf f d => 0b000110#6 ++ d.bit ++ f
  | .bcf f b => 0b0100#4 ++ b ++ f
  | .bsf f b => 0b0101#4 ++ b ++ f
  | .btfsc f b => 0b0110#4 ++ b ++ f
  | .btfss f b => 0b0111#4 ++ b ++ f
  | .andlw k => 0b1110#4 ++ k
  | .call k => 0b1001#4 ++ k
  | .clrwdt => 0b000000000100#12
  | .goto k => 0b101#3 ++ k
  | .iorlw k => 0b1101#4 ++ k
  | .movlw k => 0b1100#4 ++ k
  | .option => 0b000000000010#12
  | .retlw k => 0b1000#4 ++ k
  | .sleep => 0b000000000011#12
  | .tris f => 0b000000000#9 ++ f
  | .xorlw k => 0b1111#4 ++ k

/-- The `match` and `mask` of an instruction's row of the opcode table (R100). -/
def Instr.row : Instr → InstrWord × InstrWord
  | .addwf _ _ => (0x1C0#12, 0xFC0#12)
  | .andwf _ _ => (0x140#12, 0xFC0#12)
  | .clrf _ => (0x060#12, 0xFE0#12)
  | .clrw => (0x040#12, 0xFFF#12)
  | .comf _ _ => (0x240#12, 0xFC0#12)
  | .decf _ _ => (0x0C0#12, 0xFC0#12)
  | .decfsz _ _ => (0x2C0#12, 0xFC0#12)
  | .incf _ _ => (0x280#12, 0xFC0#12)
  | .incfsz _ _ => (0x3C0#12, 0xFC0#12)
  | .iorwf _ _ => (0x100#12, 0xFC0#12)
  | .movf _ _ => (0x200#12, 0xFC0#12)
  | .movwf _ => (0x020#12, 0xFE0#12)
  | .nop => (0x000#12, 0xFFF#12)
  | .rlf _ _ => (0x340#12, 0xFC0#12)
  | .rrf _ _ => (0x300#12, 0xFC0#12)
  | .subwf _ _ => (0x080#12, 0xFC0#12)
  | .swapf _ _ => (0x380#12, 0xFC0#12)
  | .xorwf _ _ => (0x180#12, 0xFC0#12)
  | .bcf _ _ => (0x400#12, 0xF00#12)
  | .bsf _ _ => (0x500#12, 0xF00#12)
  | .btfsc _ _ => (0x600#12, 0xF00#12)
  | .btfss _ _ => (0x700#12, 0xF00#12)
  | .andlw _ => (0xE00#12, 0xF00#12)
  | .call _ => (0x900#12, 0xF00#12)
  | .clrwdt => (0x004#12, 0xFFF#12)
  | .goto _ => (0xA00#12, 0xE00#12)
  | .iorlw _ => (0xD00#12, 0xF00#12)
  | .movlw _ => (0xC00#12, 0xF00#12)
  | .option => (0x002#12, 0xFFF#12)
  | .retlw _ => (0x800#12, 0xF00#12)
  | .sleep => (0x003#12, 0xFFF#12)
  | .tris _ => (0x006#12, 0xFFF#12)
  | .xorlw _ => (0xF00#12, 0xF00#12)

/-- The instruction the decoder reads from the `nbits` bits of `w`. An instruction is one 12-bit
word (R91), so bits above bit 11 belong to no instruction. -/
def decodeTableWord (nbits w : Nat) : Option Instr :=
  if w % 2 ^ nbits < 4096 then
    match decode (BitVec.ofNat 12 (w % 2 ^ nbits)) with
    | .ok i => some i
    | .error _ => none
  else none

end Sys2Proof
end

