-- ==== Sys2Proof/Config.lean ====
section
/-!
DEFINITION. What the spec leaves to the device or to the outside world: the parameters of
00_scope.md section 4, and the free values (the spec's `draw`, R14), which are opaque functions
of the machine's time. Nothing in Lean can evaluate a free value, so a claim holds for every one.
-/

namespace Sys2Proof

/-- The parameters a run is given before it starts; no instruction reads or writes one (R55). -/
structure Params where
  /-- `HAS_COMPARATOR` (R5): true for the PIC10F204, false for the PIC10F200. -/
  hasComparator : Bool
  /-- `PROG_WORDS` (R8): how many program words are implemented, 1 to 512. -/
  progWords : Nat
  /-- `STACK_DEPTH` (R9): how many return addresses the hardware stack holds. -/
  stackDepth : Nat
  /-- `WDTE` (R10): the watchdog runs and can reset the device. -/
  wdte : Bool
  /-- `MCLRE` (R10): an external MCLR reset can occur. -/
  mclre : Bool
  /-- Whether the model adopts the counting sketch of R166. When false every read of TMR0 is a
  draw, the spec's safe reading (92_eei_decisions.md D24; log entry 9). -/
  timer0Sketch : Bool
  /-- Whether the model takes the strict reading of U7: on the PIC10F200 it then refuses a write that
  would set STATUS bit 6. When false that bit is storage there (log entry 29). -/
  strict : Bool
deriving DecidableEq, Repr

/-- The level the outside world puts on GP3 to GP0 at a time (R11 `Pins(t)`, R42). -/
opaque Config.pinLevels : Nat → BitVec 4

/-- Which of GP3 to GP0 something outside drives at a time. A pin that nothing drives is where a
weak pull-up shows (R173). -/
opaque Config.outsideDrives : Nat → BitVec 4

/-- CMPOUT, the comparator's output, at a time (R43). -/
opaque Config.comparatorOutput : Nat → Bool

/-- What a read of TMR0 returns when the model does not fix the count (R166, D24). -/
opaque Config.timer0Reading : Nat → BitVec 8

/-- How many external events reach Timer0 after the instruction that ends at a time. The second
argument is T0SE, the edge that is counted (R49). Used by the sketch of R166 only. -/
opaque Config.timer0Edges : Nat → Bool → Nat

/-- How many periods of the watchdog's own clock pass in a step (R169, R170: clock not given). -/
opaque Config.watchdogTicks : Nat → Nat

/-- The prescaler's count after an OPTION instruction that changes PSA or PS (U9). -/
opaque Config.prescalerAfterOption : Nat → BitVec 8

/-- Where DECFSZ or INCFSZ with PCL as its destination leaves the program counter (U6). -/
opaque Config.pcAfterCountIntoPcl : Nat → BitVec 9

/-- W after a reset (R183: `x` for every kind). -/
opaque Config.unknownW : Nat → BitVec 8

/-- The stack after a reset, entry by entry (R183: `x` for every kind). -/
opaque Config.unknownStackEntry : Nat → Nat → BitVec 9

/-- TMR0 after a power-on reset taken in a run (R60). -/
opaque Config.unknownTmr0 : Nat → BitVec 8

/-- Z, DC and C after a power-on reset taken in a run (R60). -/
opaque Config.unknownFlags : Nat → BitVec 3

/-- FSR[4:0] after a power-on reset taken in a run (R60). -/
opaque Config.unknownFsr : Nat → BitVec 5

/-- The GPIO latch after a power-on reset taken in a run (R60). -/
opaque Config.unknownGplat : Nat → BitVec 4

/-- The general purpose register at a file address after a power-on reset in a run (R60). -/
opaque Config.unknownGpr : Nat → Nat → BitVec 8

/-- The prescaler after a power-on reset taken in a run (R60). -/
opaque Config.unknownPrescaler : Nat → BitVec 8

/-- The watchdog counter after a power-on reset taken in a run (R60). -/
opaque Config.unknownWdt : Nat → Nat

end Sys2Proof
end

