-- ==== Sys2Proof/Machine/Memory.lean ====
section
/-!
DEFINITION. Sparse memories: lists of (address, value) pairs with strictly rising addresses. The
general purpose registers (spec 20_memory.md R65) and the program image (R64) are held this way.
-/

namespace Sys2Proof.Machine

/-- The value listed at an address. -/
def Memory.lookup {n : Nat} (a : Nat) : List (Nat × BitVec n) → Option (BitVec n)
  | [] => none
  | c :: m => if a = c.1 then some c.2 else Memory.lookup a m

/-- Lists a value at an address, in the address's place. -/
def Memory.insert {n : Nat} (a : Nat) (v : BitVec n) : List (Nat × BitVec n) → List (Nat × BitVec n)
  | [] => [(a, v)]
  | c :: m =>
    if a < c.1 then (a, v) :: c :: m
    else if a = c.1 then (a, v) :: m
    else c :: Memory.insert a v m

/-- Takes an address off the list. -/
def Memory.erase {n : Nat} (a : Nat) (m : List (Nat × BitVec n)) : List (Nat × BitVec n) :=
  m.filter (fun c => c.1 != a)

/-- The addresses lie in `[lo, hi)` and rise strictly. -/
def Memory.sorted {n : Nat} (lo hi : Nat) : List (Nat × BitVec n) → Bool
  | [] => true
  | c :: m => decide (lo ≤ c.1) && decide (c.1 < hi) && Memory.sorted (c.1 + 1) hi m

/-- The byte at a data address. An address that is not listed reads 00h (DESIGN CHOICE, unsafe:
the spec gives the general purpose registers no power-on value; log entries 5 and 21). -/
def Memory.read (a : Nat) (m : List Host.Cell) : Byte :=
  (Memory.lookup a m).getD 0#8

/-- Stores a byte; storing what an unlisted address reads as takes the entry off the list. -/
def Memory.write (a : Nat) (v : Byte) (m : List Host.Cell) : List Host.Cell :=
  if v = 0#8 then Memory.erase a m else Memory.insert a v m

/-- The canonical form of the data memory: general purpose registers 10h to 1Fh only (R45), in
rising order, none listed with the value an unlisted one reads as. -/
def Memory.wf (m : List Host.Cell) : Bool :=
  Memory.sorted 16 32 m && m.all (fun c => c.2 != 0#8)

/-- The canonical memory that holds `v a` at the `count` addresses from `lo`. -/
def Memory.ofValues (v : Nat → Byte) : Nat → Nat → List Host.Cell
  | 0, _ => []
  | count + 1, lo =>
    if v lo = 0#8 then Memory.ofValues v count (lo + 1)
    else (lo, v lo) :: Memory.ofValues v count (lo + 1)

end Sys2Proof.Machine
end

