-- ==== Sys2Proof/Machine/State.lean ====
section
/-!
DEFINITION. The machine's state (spec 10_state.md R25), why a step can stop, and the state after a
power-on reset (R60).
-/

namespace Sys2Proof.Machine

/-- The kinds of reset (spec 70_reset_and_hazards.md R182). -/
inductive ResetKind where
  | powerOn
  | mclr
  | watchdog
  | pinChange
  | comparatorChange
deriving DecidableEq, Repr

/-- The hardware return stack (R31): `top` is `STACK[0]`, `below` the entries from `STACK[1]` to
`STACK[STACK_DEPTH-1]`. -/
structure Stack where
  top : ProgAddr
  below : List ProgAddr
deriving DecidableEq, Repr

/-- The entries from the top down. -/
def Stack.entries (k : Stack) : List ProgAddr :=
  k.top :: k.below

/-- A stack of a given depth, entry by entry. -/
def Stack.ofEntries (depth : Nat) (entry : Nat → ProgAddr) : Stack where
  top := entry 0
  below := (List.range (depth - 1)).map (fun i => entry (i + 1))

/-- Everything the spec gives the machine (R25), the parameters and inputs of R55, and the
machine's time. -/
structure State where
  /-- The working register (R26). -/
  w : Byte
  /-- The program counter (R27). -/
  pc : ProgAddr
  /-- The return stack (R31). -/
  stack : Stack
  /-- File 01h (R35). Without the counting sketch of R166 it holds the last value written. -/
  tmr0 : Byte
  /-- File 03h: GPWUF, CWUF, reserved, TO, PD, Z, DC, C (R37). -/
  status : Byte
  /-- File 04h: the five stored bits (R41). -/
  fsr : FileAddr
  /-- File 05h (R40). -/
  osccal : Byte
  /-- The output latch behind file 06h (R42). -/
  gplat : BitVec 4
  /-- File 07h: bits 6 to 0 (R43); bit 7 is an input. -/
  cmcon0 : BitVec 7
  /-- The general purpose registers, files 10h to 1Fh (R45). -/
  ram : List Host.Cell
  /-- The I/O control register (R46). -/
  trisgpio : BitVec 4
  /-- GPWU, GPPU, T0CS, T0SE, PSA, PS[2:0] (R47). -/
  option : Byte
  /-- The hidden prescaler count (R51). Without the sketch of R166 Timer0's events do not move it
  (DESIGN CHOICE; log entry 30). -/
  prescaler : Byte
  /-- The hidden watchdog count, of no stated width (R52). -/
  wdt : Nat
  /-- The core has executed SLEEP (R53). -/
  sleeping : Bool
  /-- The program image (R64): the words it gives, by address. -/
  prog : List (Nat × InstrWord)
  /-- The parameters of the run (R5 to R10). -/
  params : Params
  /-- What the reset sources do at the coming instruction boundaries, one entry for each step: the
  causes that coincide there, in the order in which they apply. When the list is used up there are
  none (R160 to R162; log entry 12). -/
  events : List (List ResetKind)
  /-- The instruction cycle the machine is in: the time at which free values are drawn (R11). -/
  now : Nat
deriving DecidableEq, Repr

/-- The machine has no exception (R158); the model has one fault of its own. -/
inductive Fault where
  /-- The fetch reads a program word that the loaded image does not give (R64; log entry 20).
  Raised by the step. Safe: the hardware goes on with whatever word stands there. -/
  | unprogrammedWord (address : Nat)
deriving DecidableEq, Repr

/-- What the spec gives no meaning. -/
inductive Refusal where
  /-- An instruction exec has no meaning for yet. Raised by exec's arms. Safe: the model stops. -/
  | notModelled (mnemonic : String)
  /-- One of the 58 words that are no instruction (R104). Raised by the step. Safe: the model
  stops where the hardware does something the spec does not say. -/
  | unassignedOpcode (word : InstrWord)
  /-- TRIS with an operand other than 6, a term no word decodes to (R106, R154). Raised by
  execTris. Safe: the model stops. -/
  | undefinedPort (f : BitVec 3)
  /-- A write that would set a STATUS bit the device reserves: bit 5 (R39, R140, U4) or, on the
  PIC10F200 and in the strict reading only, bit 6 (U7). Raised by the step. Safe: the model stops. -/
  | reservedStatusBit (bit : Nat)
  /-- DECFSZ or INCFSZ with PCL as its destination (R117, R124, R126, U6). Raised by the step.
  Safe: the model stops. -/
  | countIntoPcl
deriving DecidableEq, Repr

/-- The values a power-on reset leaves unknown (R60, marked `x` or not in the source). -/
structure Unknowns where
  w : Byte
  stackEntry : Nat → ProgAddr
  tmr0 : Byte
  /-- Z, DC, C. -/
  flags : BitVec 3
  fsr : FileAddr
  gplat : BitVec 4
  gpr : Nat → Byte
  prescaler : Byte
  wdt : Nat

/-- The state right after a power-on reset (R60, R184), for given unknown values. -/
def State.powerOn (params : Params) (prog : List (Nat × InstrWord))
    (events : List (List ResetKind)) (now : Nat) (u : Unknowns) : State where
  w := u.w
  pc := 0x1FF#9
  stack := Stack.ofEntries params.stackDepth u.stackEntry
  tmr0 := u.tmr0
  status := 0b00011#5 ++ u.flags
  fsr := u.fsr
  osccal := 0xFE#8
  gplat := u.gplat
  cmcon0 := 0x7F#7
  ram := Memory.ofValues u.gpr 16 16
  trisgpio := 0xF#4
  option := 0xFF#8
  prescaler := u.prescaler
  wdt := u.wdt
  sleeping := false
  prog := prog
  params := params
  events := events
  now := now

/-- The values State.reset takes for what the spec leaves unknown: zero (DESIGN CHOICE, unsafe;
log entry 5). -/
def Unknowns.zero : Unknowns where
  w := 0#8
  stackEntry := fun _ => 0#9
  tmr0 := 0#8
  flags := 0#3
  fsr := 0#5
  gplat := 0#4
  gpr := fun _ => 0#8
  prescaler := 0#8
  wdt := 0

/-- The device State.reset is of: a PIC10F204 with 256 program words (R8) and a stack of two
entries (R9), watchdog and MCLR off (R10), TMR0 read as a draw (log entries 1, 2, 3, 9, 29). -/
def Params.pic10f204 : Params where
  hasComparator := true
  progWords := 256
  stackDepth := 2
  wdte := false
  mclre := false
  timer0Sketch := false
  strict := false

/-- The machine right after power-on (R60), with no program loaded, no reset source about to act
and the unknown values at zero (log entries 5, 12, 20). -/
def State.reset : State :=
  State.powerOn Params.pic10f204 [] [] 0 Unknowns.zero

end Sys2Proof.Machine
end

