-- ==== Sys2Proof/Machine/Operands.lean ====
section
/-!
DEFINITION. The fields of the control registers, the register file map, the two addressing modes
and the read of a file register (spec 10_state.md R33 to R50, 20_memory.md R69, R70).
-/

namespace Sys2Proof.Machine

/-- OPTION bit 7, GPWU: 0 arms the wake-up on pin change (R47, R48). -/
def State.gpwu (s : State) : Bool := s.option.getLsbD 7

/-- OPTION bit 6, GPPU: 0 turns the weak pull-ups on (R47, R48). -/
def State.gppu (s : State) : Bool := s.option.getLsbD 6

/-- OPTION bit 5, T0CS: 1 counts transitions on the T0CKI pin (R47, R49). -/
def State.t0cs (s : State) : Bool := s.option.getLsbD 5

/-- OPTION bit 4, T0SE: 1 counts high-to-low transitions (R47, R49). -/
def State.t0se (s : State) : Bool := s.option.getLsbD 4

/-- OPTION bit 3, PSA: 1 gives the prescaler to the watchdog (R47, R167). -/
def State.psa (s : State) : Bool := s.option.getLsbD 3

/-- OPTION bits 2 to 0, PS (R47, R50). -/
def State.ps (s : State) : BitVec 3 := s.option.extractLsb' 0 3

/-- OSCCAL bit 0, FOSC4: 1 puts INTOSC/4 onto GP2 (R40). -/
def State.fosc4 (s : State) : Bool := s.osccal.getLsbD 0

/-- CMCON0 bit 6, COUTEN: 0 puts the comparator output onto GP2 (R43). -/
def State.couten (s : State) : Bool := s.cmcon0.getLsbD 6

/-- CMCON0 bit 4, CMPT0CS: 0 clocks Timer0 from the comparator output (R43). -/
def State.cmpt0cs (s : State) : Bool := s.cmcon0.getLsbD 4

/-- CMCON0 bit 0, CWU: 0 arms the wake-up on comparator change (R43, R174). -/
def State.cwu (s : State) : Bool := s.cmcon0.getLsbD 0

/-- STATUS bit 0, the carry the rotates go through (R37, R56). -/
def State.carry (s : State) : Bool := s.status.getLsbD 0

/-- What an effective file address names (R33). -/
inductive FileReg where
  | indf
  | tmr0
  | pcl
  | status
  | fsr
  | osccal
  | gpio
  | cmcon0
  | unimplemented
  /-- A general purpose register, with its file address. -/
  | gpr (address : Nat)
deriving DecidableEq, Repr

/-- The register file map of FIGURE 4-3 (R33). Address 07h is CMCON0 on the PIC10F204 only (R5). -/
def locate (p : Params) (a : FileAddr) : FileReg :=
  match a.toNat with
  | 0 => .indf
  | 1 => .tmr0
  | 2 => .pcl
  | 3 => .status
  | 4 => .fsr
  | 5 => .osccal
  | 6 => .gpio
  | 7 => if p.hasComparator then .cmcon0 else .unimplemented
  | n => if n < 16 then .unimplemented else .gpr n

/-- The effective address (R69): `f` itself, or what FSR holds when `f` names INDF. -/
def effAddr (f : FileAddr) (s : State) : FileAddr :=
  if f = 0#5 then s.fsr else f

/-- Something other than the port has GP2: the T0CKI input (R49), the INTOSC/4 output (R40) or, on
the PIC10F204, the comparator output (R43, R171). -/
def gp2Overridden (s : State) : Bool :=
  s.t0cs || s.fosc4 || (s.params.hasComparator && !s.couten)

/-- The port drives pin `i` from its latch (R42): TRISGPIO says output, no override is in force, and
the pin is not GP3, which is input only. -/
def pinDriven (s : State) (i : Nat) : Bool :=
  !s.trisgpio.getLsbD i && i != 3 && !(i == 2 && gp2Overridden s)

/-- A weak pull-up is on: GPPU = 0, on GP0, GP1 and GP3 (R47, R48, R173). -/
def pulledUp (s : State) (i : Nat) : Bool :=
  !s.gppu && i != 2

/-- `PinLevel(i)` (R42): the latch on a pin the port drives. On any other, 1 where a pull-up is on
and nothing outside drives the pin (R173), else the outside world's level. -/
def pinLevel (s : State) (i : Nat) : Bool :=
  if pinDriven s i then s.gplat.getLsbD i
  else if pulledUp s i && !(Config.outsideDrives s.now).getLsbD i then true
  else (Config.pinLevels s.now).getLsbD i

/-- The four pin levels as a read of GPIO orders them (R70). -/
def pinLevels (s : State) : BitVec 4 :=
  BitVec.ofBool (pinLevel s 3) ++ BitVec.ofBool (pinLevel s 2)
    ++ BitVec.ofBool (pinLevel s 1) ++ BitVec.ofBool (pinLevel s 0)

/-- Timer0 counts something from outside: transitions on T0CKI (R49) or, on the PIC10F204, the
comparator's output (R43). -/
def timer0External (s : State) : Bool :=
  s.t0cs || (s.params.hasComparator && !s.cmpt0cs)

/-- A read of TMR0 (R166, D24): the count when the model has adopted the sketch and the count is
the machine's own, else a draw. -/
def readTmr0 (s : State) : Byte :=
  if s.params.timer0Sketch && !timer0External s then s.tmr0 else Config.timer0Reading s.now

/-- A read of the register at an effective address (R70). Address 00h is reached only when FSR
names INDF itself, and reads 00h (R73). No read has a side effect. -/
def readFile (a : FileAddr) (s : State) : Byte :=
  match locate s.params a with
  | .indf => 0#8
  | .tmr0 => readTmr0 s
  | .pcl => s.pc.extractLsb' 0 8
  | .status => s.status
  | .fsr => 0b111#3 ++ s.fsr
  | .osccal => s.osccal
  | .gpio => 0#4 ++ pinLevels s
  | .cmcon0 => BitVec.ofBool (Config.comparatorOutput s.now) ++ s.cmcon0
  | .unimplemented => 0#8
  | .gpr n => Memory.read n s.ram

/-- The operand `x[f]` (R70): a read at the effective address. -/
def readOperand (f : FileAddr) (s : State) : Byte :=
  readFile (effAddr f s) s

/-- An 8-bit value with bit `i` set to a value (R98, R139, R140). -/
def putBit (i : Nat) (b : Bool) (v : Byte) : Byte :=
  if b then v ||| (1#8 <<< i) else v &&& ~~~(1#8 <<< i)

/-- The two 4-bit halves exchanged (R134). -/
def swapNibbles (v : Byte) : Byte :=
  v.extractLsb' 0 4 ++ v.extractLsb' 4 4

/-- One place left, `c` into bit 0 (R131). -/
def rotateLeft (v : Byte) (c : Bool) : Byte :=
  v.extractLsb' 0 7 ++ BitVec.ofBool c

/-- One place right, `c` into bit 7 (R132). -/
def rotateRight (v : Byte) (c : Bool) : Byte :=
  BitVec.ofBool c ++ v.extractLsb' 1 7

end Sys2Proof.Machine
end

