-- ==== Sys2Proof/Machine/Flags.lean ====
section
/-!
DEFINITION. The flags (spec 10_state.md R37 to R39, R56, 40_byte_oriented.md R114).
-/

namespace Sys2Proof.Machine

/-- The STATUS bits an instruction writes as flags, with their values (R56); a flag that is not
among them keeps its value. -/
structure FlagUpdate where
  c : Option Bool := none
  dc : Option Bool := none
  z : Option Bool := none
deriving DecidableEq, Repr

/-- No flag is affected. -/
def FlagUpdate.nothing : FlagUpdate where

/-- Writes one flag, if it is affected. -/
def putFlag (bit : Nat) (flag : Option Bool) (status : Byte) : Byte :=
  match flag with
  | none => status
  | some b => putBit bit b status

/-- Writes the affected flags: C is bit 0, DC bit 1, Z bit 2 (R37). -/
def FlagUpdate.apply (u : FlagUpdate) (status : Byte) : Byte :=
  putFlag 2 u.z (putFlag 1 u.dc (putFlag 0 u.c status))

/-- Z alone, from a result (R38, R114). -/
def zeroFlag (r : Byte) : FlagUpdate where
  z := some (r == 0#8)

/-- C, DC and Z of `v + w` (R114, R118): C is the 9-bit sum's bit 8, DC the carry out of bit 3. -/
def addFlags (v w : Byte) : FlagUpdate where
  c := some ((v.setWidth 9 + w.setWidth 9).getLsbD 8)
  dc := some (((v.extractLsb' 0 4).setWidth 5 + (w.extractLsb' 0 4).setWidth 5).getLsbD 4)
  z := some (v + w == 0#8)

/-- C, DC and Z of `v - w` (R114, R133): 1 means no borrow. -/
def subFlags (v w : Byte) : FlagUpdate where
  c := some (decide (w ≤ v))
  dc := some (decide (w.extractLsb' 0 4 ≤ v.extractLsb' 0 4))
  z := some (v - w == 0#8)

/-- C alone, of a rotate (R114). -/
def carryFlag (b : Bool) : FlagUpdate where
  c := some b

/-- STATUS with TO (bit 4) and PD (bit 3) set to values (R39). -/
def putTimeoutPowerDown (timeout powerDown : Bool) (status : Byte) : Byte :=
  putBit 4 timeout (putBit 3 powerDown status)

/-- STATUS with GPWUF (bit 7) and CWUF (bit 6) set to values (R37, R39). -/
def putWakeFlags (gpwuf cwuf : Bool) (status : Byte) : Byte :=
  putBit 7 gpwuf (putBit 6 cwuf status)

/-- STATUS after a data write of `v` (R37, R71): TO and PD keep their values. -/
def statusWrite (v status : Byte) : Byte :=
  (v &&& 0xE7#8) ||| (status &&& 0x18#8)

end Sys2Proof.Machine
end

