-- ==== Sys2Proof/Machine/Ops.lean ====
section
/-!
DEFINITION. The named operations over registers, memory, stack, time and devices, and the taking of
a reset, which is this machine's only exception entry (spec 60_exceptions.md R163). There is no
return from it (R164).
-/

namespace Sys2Proof.Machine

/-! ### Register file -/

/-- A write to the register at an effective address (R71). Address 00h is reached only when FSR
names INDF itself, and stores nothing (R73). -/
def writeFile (a : FileAddr) (v : Byte) (s : State) : State :=
  match locate s.params a with
  | .indf => s
  | .tmr0 => { s with tmr0 := v, prescaler := if s.psa then s.prescaler else 0#8 }
  | .pcl => { s with pc := 0#1 ++ v }
  | .status => { s with status := statusWrite v s.status }
  | .fsr => { s with fsr := v.extractLsb' 0 5 }
  | .osccal => { s with osccal := v }
  | .gpio => { s with gplat := v.extractLsb' 0 4 }
  | .cmcon0 => { s with cmcon0 := v.extractLsb' 0 7 }
  | .unimplemented => s
  | .gpr n => { s with ram := Memory.write n v s.ram }

/-- Stores a result in W or in the file register (R113). -/
def writeDest (d : Dest) (a : FileAddr) (r : Byte) (s : State) : State :=
  match d with
  | .w => { s with w := r }
  | .f => writeFile a r s

/-- Writes the affected flags. Done after the result is stored, so that with STATUS as the
destination the flags win (R57). -/
def setFlags (u : FlagUpdate) (s : State) : State :=
  { s with status := u.apply s.status }

/-- The result goes to PCL, so the instruction is a branch (R115). -/
def writesPcl (d : Dest) (a : FileAddr) (s : State) : Bool :=
  d == .f && locate s.params a == .pcl

/-- Lets `n` instruction cycles pass (R200). -/
def spend (n : Nat) (s : State) : State :=
  { s with now := s.now + n }

/-- Discards the next instruction (R116). -/
def skip (s : State) : State :=
  { s with pc := s.pc + 1#9 }

/-- Stores a result and its flags, in one cycle or, into PCL, two (R113, R200). -/
def storeResult (f : FileAddr) (d : Dest) (r : Byte) (u : FlagUpdate) (s : State) : State :=
  spend (if writesPcl d (effAddr f s) s then 2 else 1)
    (setFlags u (writeDest d (effAddr f s) r s))

/-- Stores a count and skips when it is zero (R116, R124, R126). Where the count goes to PCL the
spec does not fix the outcome: the program counter is then a free value, and the step refuses the
use (`reservedUse`; U6; log entry 16). -/
def storeCount (f : FileAddr) (d : Dest) (r : Byte) (s : State) : State :=
  if writesPcl d (effAddr f s) s then
    spend 2 { s with pc := Config.pcAfterCountIntoPcl s.now }
  else if r = 0#8 then spend 2 (skip (writeDest d (effAddr f s) r s))
  else spend 1 (writeDest d (effAddr f s) r s)

/-- Skips when the condition holds: two cycles then, else one (R116, R200). -/
def skipWhen (c : Bool) (s : State) : State :=
  if c then spend 2 (skip s) else spend 1 s

/-- Stores a literal operation's result in W, with its zero flag (R145, R149, R155). -/
def storeW (r : Byte) (s : State) : State :=
  spend 1 (setFlags (zeroFlag r) { s with w := r })

/-! ### Stack -/

/-- The last entry, `STACK[STACK_DEPTH-1]`. -/
def Stack.bottom (k : Stack) : ProgAddr :=
  k.below.getLastD k.top

/-- `Push(v)` (R31): every entry moves down by one and the last is lost. -/
def Stack.push (v : ProgAddr) (k : Stack) : Stack where
  top := v
  below := (k.top :: k.below).dropLast

/-- What `Pop()` leaves (R32): every entry moves up by one and the last keeps its value. -/
def Stack.pop (k : Stack) : Stack :=
  match k.below with
  | [] => k
  | b :: bs => { top := b, below := bs ++ [k.bottom] }

/-! ### Fetch -/

/-- The program address a fetch at `pc` reads (R66): addresses wrap into the implemented words. -/
def fetchAddr (s : State) : Nat :=
  s.pc.toNat % s.params.progWords

/-- `ProgRead(pc)` (R66), where the image gives the word. -/
def fetch (s : State) : Option InstrWord :=
  Memory.lookup (fetchAddr s) s.prog

/-- The sequential advance that the fetch does before the instruction executes (R28, R30). -/
def advancePc (s : State) : State :=
  { s with pc := s.pc + 1#9 }

/-! ### Timer0, prescaler and watchdog -/

/-- How many events Timer0's prescaler divides by, `2^(PS+1)` (R50). -/
def timer0Rate (s : State) : Nat :=
  2 ^ (s.ps.toNat + 1)

/-- How many periods the watchdog's prescaler divides by, `2^PS` (R50). -/
def watchdogRate (s : State) : Nat :=
  2 ^ s.ps.toNat

/-- Timer0 and the prescaler after `n` events (R166), in closed form: TMR0 advances once for every
multiple of the rate that the prescaler's count passes. -/
def countTimer0 (n : Nat) (s : State) : State :=
  if s.psa then { s with tmr0 := s.tmr0 + BitVec.ofNat 8 n }
  else
    { s with
      prescaler := s.prescaler + BitVec.ofNat 8 n
      tmr0 := s.tmr0 + BitVec.ofNat 8
        ((s.prescaler.toNat + n) / timer0Rate s - s.prescaler.toNat / timer0Rate s) }

/-- Timer0's share of the `n` instruction cycles that end now, under the sketch of R166: that many
events, or as many as the outside world supplies. Without the sketch, where a read of TMR0 is a
draw, it moves neither the stored count nor the prescaler, also with PSA = 0 (DESIGN CHOICE; log
entry 30). -/
def runTimer0 (n : Nat) (s : State) : State :=
  if s.params.timer0Sketch then
    countTimer0 (if timer0External s then Config.timer0Edges s.now s.t0se else n) s
  else s

/-- The watchdog count and the prescaler after `n` periods of the watchdog's clock (R167, R170). -/
def countWatchdog (n : Nat) (s : State) : State :=
  if s.psa then
    { s with
      prescaler := s.prescaler + BitVec.ofNat 8 n
      wdt := s.wdt
        + ((s.prescaler.toNat + n) / watchdogRate s - s.prescaler.toNat / watchdogRate s) }
  else { s with wdt := s.wdt + n }

/-- The watchdog runs only when WDTE is set (R52), by a free number of its own periods. -/
def runWatchdog (s : State) : State :=
  if s.params.wdte then countWatchdog (Config.watchdogTicks s.now) s else s

/-- What the devices do in the `n` instruction cycles an instruction took, after its own effect. -/
def runDevices (n : Nat) (s : State) : State :=
  runWatchdog (runTimer0 n s)

/-- CLRWDT's and SLEEP's clearing of the watchdog, and of the prescaler when it is the watchdog's
(R51, R147, R153). -/
def clearWatchdog (s : State) : State :=
  { s with wdt := 0, prescaler := if s.psa then 0#8 else s.prescaler }

/-! ### Sleep and resets -/

/-- A cycle asleep (R178): every register keeps its value, the watchdog counts. -/
def waitAsleep (s : State) : State :=
  runWatchdog (spend 1 s)

/-- Whether a reset of a kind can happen now (R160). -/
def resetEnabled (k : ResetKind) (s : State) : Bool :=
  match k with
  | .powerOn => true
  | .mclr => s.params.mclre
  | .watchdog => s.params.wdte
  | .pinChange => s.sleeping && !s.gpwu
  | .comparatorChange => s.sleeping && s.params.hasComparator && !s.cwu

/-- The resets that happen at this instruction boundary, in the order in which they apply. None is
ever pending: a cause that is not enabled at this moment does nothing (R161). -/
def resetsNow (s : State) : List ResetKind :=
  (s.events.headD []).filter (fun k => resetEnabled k s)

/-- The boundary has passed. -/
def passBoundary (s : State) : State :=
  { s with events := s.events.tail }

/-- A fresh draw of everything a power-on reset leaves unknown (R60, R184). -/
def unknownsAt (t : Nat) : Unknowns where
  w := Config.unknownW t
  stackEntry := Config.unknownStackEntry t
  tmr0 := Config.unknownTmr0 t
  flags := Config.unknownFlags t
  fsr := Config.unknownFsr t
  gplat := Config.unknownGplat t
  gpr := Config.unknownGpr t
  prescaler := Config.unknownPrescaler t
  wdt := Config.unknownWdt t

/-- What every reset other than power-on does (R183, the right-hand column), given the STATUS it
leaves. -/
def restart (status : Byte) (s : State) : State :=
  { s with
    w := Config.unknownW s.now
    pc := 0x1FF#9
    stack := Stack.ofEntries s.params.stackDepth (Config.unknownStackEntry s.now)
    status := status
    cmcon0 := if s.params.hasComparator then 0x7F#7 else s.cmcon0
    trisgpio := 0xF#4
    option := 0xFF#8
    prescaler := 0#8
    wdt := 0
    sleeping := false
    now := s.now + 1 }

/-- STATUS after a reset: its row of R189, the other bits unchanged. -/
def resetStatus (status : Byte) (k : ResetKind) : Byte :=
  match k with
  | .powerOn => putTimeoutPowerDown true true (putWakeFlags false false status)
  | .mclr => putWakeFlags false false status
  | .watchdog => putBit 4 false (putWakeFlags false false status)
  | .pinChange => putWakeFlags true false status
  | .comparatorChange => putWakeFlags false true status

/-- Takes the resets that coincide at one boundary (R183, R184 to R189). Power-on dominates; of any
others each applies its STATUS row in turn, so that either order is admitted (R162). A reset saves
nothing and goes to the reset entry point (R163, R190). -/
def takeResets (ks : List ResetKind) (s : State) : State :=
  if ks.contains .powerOn then
    State.powerOn s.params s.prog s.events (s.now + 1) (unknownsAt s.now)
  else restart (ks.foldl resetStatus s.status) s

end Sys2Proof.Machine
end

