-- ==== Sys2Proof/Machine/BitOriented.lean ====
section
/-!
DEFINITION. The bit-oriented file register operations (spec 41_bit_oriented.md).
-/

namespace Sys2Proof.Machine

open Host (Outcome)

/-- BCF f, b (R139): reads, changes one bit and writes the whole register back (R138). -/
def execBcf (f : FileAddr) (b : BitVec 3) (s : State) : Outcome State Fault Refusal :=
  .next (storeResult f .f (putBit b.toNat false (readOperand f s)) .nothing s)

/-- BSF f, b (R140). -/
def execBsf (f : FileAddr) (b : BitVec 3) (s : State) : Outcome State Fault Refusal :=
  .next (storeResult f .f (putBit b.toNat true (readOperand f s)) .nothing s)

/-- BTFSC f, b (R141). -/
def execBtfsc (f : FileAddr) (b : BitVec 3) (s : State) : Outcome State Fault Refusal :=
  .next (skipWhen (!(readOperand f s).getLsbD b.toNat) s)

/-- BTFSS f, b (R142). -/
def execBtfss (f : FileAddr) (b : BitVec 3) (s : State) : Outcome State Fault Refusal :=
  .next (skipWhen ((readOperand f s).getLsbD b.toNat) s)

end Sys2Proof.Machine
end

