-- ==== Sys2Proof/Machine/ByteOriented.lean ====
section
/-!
DEFINITION. The byte-oriented file register operations (spec 40_byte_oriented.md), in the opcode
table's order. The state a meaning is given has its pc already past the instruction (R28, R113).
-/

namespace Sys2Proof.Machine

open Host (Outcome)

/-- ADDWF f, d (R118). -/
def execAddwf (f : FileAddr) (d : Dest) (s : State) : Outcome State Fault Refusal :=
  let v := readOperand f s
  .next (storeResult f d (v + s.w) (addFlags v s.w) s)

/-- ANDWF f, d (R119). -/
def execAndwf (f : FileAddr) (d : Dest) (s : State) : Outcome State Fault Refusal :=
  let r := readOperand f s &&& s.w
  .next (storeResult f d r (zeroFlag r) s)

/-- CLRF f (R120); behaves as `d = 1` (R113). -/
def execClrf (f : FileAddr) (s : State) : Outcome State Fault Refusal :=
  .next (storeResult f .f 0#8 (zeroFlag 0#8) s)

/-- CLRW (R121): no file register takes part. -/
def execClrw (s : State) : Outcome State Fault Refusal :=
  .next (storeW 0#8 s)

/-- COMF f, d (R122): the ones' complement. -/
def execComf (f : FileAddr) (d : Dest) (s : State) : Outcome State Fault Refusal :=
  let r := ~~~(readOperand f s)
  .next (storeResult f d r (zeroFlag r) s)

/-- DECF f, d (R123). -/
def execDecf (f : FileAddr) (d : Dest) (s : State) : Outcome State Fault Refusal :=
  let r := readOperand f s - 1#8
  .next (storeResult f d r (zeroFlag r) s)

/-- DECFSZ f, d (R124). -/
def execDecfsz (f : FileAddr) (d : Dest) (s : State) : Outcome State Fault Refusal :=
  .next (storeCount f d (readOperand f s - 1#8) s)

/-- INCF f, d (R125). -/
def execIncf (f : FileAddr) (d : Dest) (s : State) : Outcome State Fault Refusal :=
  let r := readOperand f s + 1#8
  .next (storeResult f d r (zeroFlag r) s)

/-- INCFSZ f, d (R126). -/
def execIncfsz (f : FileAddr) (d : Dest) (s : State) : Outcome State Fault Refusal :=
  .next (storeCount f d (readOperand f s + 1#8) s)

/-- IORWF f, d (R127). -/
def execIorwf (f : FileAddr) (d : Dest) (s : State) : Outcome State Fault Refusal :=
  let r := readOperand f s ||| s.w
  .next (storeResult f d r (zeroFlag r) s)

/-- MOVF f, d (R128). -/
def execMovf (f : FileAddr) (d : Dest) (s : State) : Outcome State Fault Refusal :=
  let r := readOperand f s
  .next (storeResult f d r (zeroFlag r) s)

/-- MOVWF f (R129); behaves as `d = 1` (R113). -/
def execMovwf (f : FileAddr) (s : State) : Outcome State Fault Refusal :=
  .next (storeResult f .f s.w .nothing s)

/-- NOP (R130). -/
def execNop (s : State) : Outcome State Fault Refusal :=
  .next (spend 1 s)

/-- RLF f, d (R131): through C. -/
def execRlf (f : FileAddr) (d : Dest) (s : State) : Outcome State Fault Refusal :=
  let v := readOperand f s
  .next (storeResult f d (rotateLeft v s.carry) (carryFlag (v.getLsbD 7)) s)

/-- RRF f, d (R132): through C. -/
def execRrf (f : FileAddr) (d : Dest) (s : State) : Outcome State Fault Refusal :=
  let v := readOperand f s
  .next (storeResult f d (rotateRight v s.carry) (carryFlag (v.getLsbD 0)) s)

/-- SUBWF f, d (R133): f minus W. -/
def execSubwf (f : FileAddr) (d : Dest) (s : State) : Outcome State Fault Refusal :=
  let v := readOperand f s
  .next (storeResult f d (v - s.w) (subFlags v s.w) s)

/-- SWAPF f, d (R134). -/
def execSwapf (f : FileAddr) (d : Dest) (s : State) : Outcome State Fault Refusal :=
  .next (storeResult f d (swapNibbles (readOperand f s)) .nothing s)

/-- XORWF f, d (R135). -/
def execXorwf (f : FileAddr) (d : Dest) (s : State) : Outcome State Fault Refusal :=
  let r := readOperand f s ^^^ s.w
  .next (storeResult f d r (zeroFlag r) s)

end Sys2Proof.Machine
end

