-- ==== Sys2Proof/Machine/LiteralControl.lean ====
section
/-!
DEFINITION. The literal and control operations (spec 42_literal_control.md).
-/

namespace Sys2Proof.Machine

open Host (Outcome)

/-- ANDLW k (R145). -/
def execAndlw (k : Byte) (s : State) : Outcome State Fault Refusal :=
  .next (storeW (s.w &&& k) s)

/-- CALL k (R146): pushes the return address, which pc holds, and clears bit 8 of the target. -/
def execCall (k : Byte) (s : State) : Outcome State Fault Refusal :=
  .next (spend 2 { s with stack := s.stack.push s.pc, pc := 0#1 ++ k })

/-- CLRWDT (R147). -/
def execClrwdt (s : State) : Outcome State Fault Refusal :=
  let t := clearWatchdog s
  .next (spend 1 { t with status := putTimeoutPowerDown true true t.status })

/-- GOTO k (R148). -/
def execGoto (k : ProgAddr) (s : State) : Outcome State Fault Refusal :=
  .next (spend 2 { s with pc := k })

/-- IORLW k (R149). -/
def execIorlw (k : Byte) (s : State) : Outcome State Fault Refusal :=
  .next (storeW (s.w ||| k) s)

/-- MOVLW k (R150): no flag. -/
def execMovlw (k : Byte) (s : State) : Outcome State Fault Refusal :=
  .next (spend 1 { s with w := k })

/-- OPTION (R151). A change of PSA or PS leaves the prescaler's count unknown (U9, R195). -/
def execOption (s : State) : Outcome State Fault Refusal :=
  .next (spend 1
    { s with
      option := s.w
      prescaler :=
        if s.w.extractLsb' 0 4 = s.option.extractLsb' 0 4 then s.prescaler
        else Config.prescalerAfterOption s.now })

/-- RETLW k (R152): all nine bits of the popped address. -/
def execRetlw (k : Byte) (s : State) : Outcome State Fault Refusal :=
  .next (spend 2 { s with w := k, pc := s.stack.top, stack := s.stack.pop })

/-- SLEEP (R153). -/
def execSleep (s : State) : Outcome State Fault Refusal :=
  let t := clearWatchdog s
  .next (spend 1 { t with status := putTimeoutPowerDown true false t.status, sleeping := true })

/-- TRIS f (R154). No word decodes to an operand other than 6 (R106). -/
def execTris (f : BitVec 3) (s : State) : Outcome State Fault Refusal :=
  if f = 6#3 then .next (spend 1 { s with trisgpio := s.w.extractLsb' 0 4 })
  else .refused (.undefinedPort f)

/-- XORLW k (R155). -/
def execXorlw (k : Byte) (s : State) : Outcome State Fault Refusal :=
  .next (storeW (s.w ^^^ k) s)

end Sys2Proof.Machine
end

