-- ==== Sys2Proof/Machine/Reserved.lean ====
section
/-!
DEFINITION. The uses of an instruction that the spec has a model refuse although its rules give them
an effect (R14, 93_implementation_defined.md part 1: U4, U6, U7).
-/

namespace Sys2Proof.Machine

/-- DECFSZ or INCFSZ whose destination is PCL, directly or through INDF (R117, U6). -/
def countsIntoPcl (i : Instr) (s : State) : Bool :=
  match i with
  | .decfsz f d | .incfsz f d => writesPcl d (effAddr f s) s
  | .addwf _ _ | .andwf _ _ | .clrf _ | .clrw | .comf _ _ | .decf _ _ | .incf _ _ | .iorwf _ _
  | .movf _ _ | .movwf _ | .nop | .rlf _ _ | .rrf _ _ | .subwf _ _ | .swapf _ _ | .xorwf _ _
  | .bcf _ _ | .bsf _ _ | .btfsc _ _ | .btfss _ _ | .andlw _ | .call _ | .clrwdt | .goto _
  | .iorlw _ | .movlw _ | .option | .retlw _ | .sleep | .tris _ | .xorlw _ => false

/-- A STATUS bit is 0 before an instruction and 1 after it. -/
def setsStatusBit (b : Nat) (s t : State) : Bool :=
  !s.status.getLsbD b && t.status.getLsbD b

/-- The refusal of an instruction that takes `s` to `t`, if its use is one the spec has a model
refuse: a count into PCL (R124, R126, U6), a write that would set STATUS bit 5 (R39, R140, D8, U4)
and, without the comparator and in the strict reading only, a write that would set bit 6 (U7; log
entry 29). Only a write to STATUS changes bits 5 and 6, so a bit that has become 1 is one a write
set. -/
def reservedUse (i : Instr) (s t : State) : Option Refusal :=
  if countsIntoPcl i s then some .countIntoPcl
  else if setsStatusBit 5 s t then some (.reservedStatusBit 5)
  else if s.params.strict && !s.params.hasComparator && setsStatusBit 6 s t then
    some (.reservedStatusBit 6)
  else none

end Sys2Proof.Machine
end

