-- ==== Sys2Proof/Machine/Step.lean ====
section
/-!
DEFINITION. One step: the resets that happen at this instruction boundary, else a cycle asleep, else
one instruction (spec 20_memory.md R81, 60_exceptions.md R162).
-/

namespace Sys2Proof.Machine

/-- An instruction's own effect, unless the spec has the model refuse its use, and then what the devices do
in the cycles it took (D17, R166). -/
def runInstr (i : Instr) (s : State) : Host.Outcome State Fault Refusal :=
  match exec i s with
  | .next t =>
    match reservedUse i s t with
    | some r => .refused r
    | none => .next (runDevices (t.now - s.now) t)
  | .fault r => .fault r
  | .refused r => .refused r

/-- Fetches, decodes and runs the instruction at pc (R28, R66, R99, R104). -/
def stepInstr (s : State) : Host.Outcome State Fault Refusal :=
  match fetch s with
  | none => .fault (.unprogrammedWord (fetchAddr s))
  | some word =>
    match decode word with
    | .error _ => .refused (.unassignedOpcode word)
    | .ok i => runInstr i (advancePc s)

/-- One step of the machine. -/
def step (s : State) : Host.Outcome State Fault Refusal :=
  match resetsNow s with
  | [] => if s.sleeping then .next (waitAsleep (passBoundary s)) else stepInstr (passBoundary s)
  | k :: ks => .next (takeResets (k :: ks) (passBoundary s))

/-- The state with a word in the program image where the next fetch reads it, awake and with no
reset about to happen, so that the next step runs that word. -/
def State.withFetchWord (s : State) (nbits w : Nat) : State :=
  { s with
    prog := Memory.insert (fetchAddr s) (BitVec.ofNat 12 (w % 2 ^ nbits)) s.prog
    sleeping := false
    events := [] }

end Sys2Proof.Machine
end

