-- ==== Sys2Proof/Safety.lean ====
section
/-!
DEFINITION. The terms the claims use: the invariant of a run, what an instruction completes with,
and the spec's tables of destinations, flags and cycles, written from the spec and not from the
meanings.
-/

namespace Sys2Proof.Machine

/-! ### States -/

/-- What every step keeps: the data memory is canonical (R45), the program image lies in rising
order inside the implemented words (R8, R64), the stack has its depth (R9), the reserved STATUS bit 5
is 0 (R39), and a sleeping core has TO = 1 and PD = 0 as SLEEP left them (R39, R153, R187). -/
structure State.Inv (s : State) : Prop where
  ram : Memory.wf s.ram = true
  progWords : 1 ≤ s.params.progWords ∧ s.params.progWords ≤ 512
  prog : Memory.sorted 0 s.params.progWords s.prog = true
  stackDepth : s.stack.entries.length = s.params.stackDepth
  reserved : s.status.getLsbD 5 = false
  asleep : s.sleeping = true → s.status.getLsbD 4 = true ∧ s.status.getLsbD 3 = false

/-- The image gives every implemented word, and each is an instruction (R64, R104). -/
def State.Covered (s : State) : Prop :=
  1 ≤ s.params.progWords ∧
    ∀ a, a < s.params.progWords →
      ∃ word i, Memory.lookup a s.prog = some word ∧ decode word = .ok i

/-- No source can wake the sleeping core (R160, R179): watchdog and MCLR are off, both wake-ups are
disarmed, and the power is not cycled. -/
def State.NoWakeUp (s : State) : Prop :=
  s.params.wdte = false ∧ s.params.mclre = false ∧ s.gpwu = true ∧
    (s.params.hasComparator = true → s.cwu = true) ∧ ∀ ks ∈ s.events, ResetKind.powerOn ∉ ks

/-- When a cause resets the device (the table of R160). -/
def ResetKind.Enabled (k : ResetKind) (s : State) : Prop :=
  match k with
  | .powerOn => True
  | .mclr => s.params.mclre = true
  | .watchdog => s.params.wdte = true
  | .pinChange => s.sleeping = true ∧ s.option.getLsbD 7 = false
  | .comparatorChange =>
    s.sleeping = true ∧ s.params.hasComparator = true ∧ s.cmcon0.getLsbD 0 = false

/-! ### Outcomes -/

/-- The instruction runs to a next state with a property. -/
def Completes (i : Instr) (s : State) (P : State → Prop) : Prop :=
  ∃ t, exec i s = .next t ∧ P t

/-- The step goes to a next state with a property. -/
def StepsTo (s : State) (P : State → Prop) : Prop :=
  ∃ t, step s = .next t ∧ P t

/-! ### Flags -/

/-- No STATUS bit is a flag of the instruction. -/
def noFlags : Nat → Option Bool :=
  fun _ => none

/-- C, bit 0, is the only flag (R56). -/
def onlyC (c : Prop) [Decidable c] : Nat → Option Bool
  | 0 => some (decide c)
  | _ => none

/-- Z, bit 2, is the only flag (R56). -/
def onlyZ (z : Prop) [Decidable z] : Nat → Option Bool
  | 2 => some (decide z)
  | _ => none

/-- C, DC and Z are flags (R56). -/
def flagsCDcZ (c dc z : Prop) [Decidable c] [Decidable dc] [Decidable z] : Nat → Option Bool
  | 0 => some (decide c)
  | 1 => some (decide dc)
  | 2 => some (decide z)
  | _ => none

/-- STATUS afterwards (R57): an affected flag has its value; with STATUS as the destination the
other bits but TO and PD take the result's; every other bit keeps its value. -/
def StatusAfter (s t : State) (target : Option FileAddr) (r : Byte) (flag : Nat → Option Bool) :
    Prop :=
  ∀ i, i < 8 →
    t.status.getLsbD i =
      match flag i with
      | some b => b
      | none =>
        if target = some 3#5 ∧ i ≠ 3 ∧ i ≠ 4 then r.getLsbD i else s.status.getLsbD i

/-! ### Results -/

/-- A result in W, in one cycle: nothing but W, STATUS and the time changes (R113). -/
def WResult (s t : State) (r : Byte) (flag : Nat → Option Bool) : Prop :=
  t = { s with w := r, status := t.status, now := s.now + 1 } ∧ StatusAfter s t none r flag

/-- What a write of `v` to the effective file address `a` leaves, STATUS and the time aside (R71).
Each register has its new value, every other register its old one, and every byte of data memory
but the one at `a` reads as before. -/
structure FileWrite (s t : State) (a : FileAddr) (v : Byte) : Prop where
  tmr0 : t.tmr0 = if a = 1#5 then v else s.tmr0
  prescaler : t.prescaler =
    if a = 1#5 ∧ s.option.getLsbD 3 = false then 0#8 else s.prescaler
  pc : t.pc = if a = 2#5 then v.setWidth 9 else s.pc
  fsr : t.fsr = if a = 4#5 then v.setWidth 5 else s.fsr
  osccal : t.osccal = if a = 5#5 then v else s.osccal
  gplat : t.gplat = if a = 6#5 then v.setWidth 4 else s.gplat
  cmcon0 : t.cmcon0 =
    if a = 7#5 ∧ s.params.hasComparator = true then v.setWidth 7 else s.cmcon0
  ram : ∀ n, Memory.read n t.ram = if n = a.toNat ∧ 16 ≤ n then v else Memory.read n s.ram
  w : t.w = s.w
  stack : t.stack = s.stack
  trisgpio : t.trisgpio = s.trisgpio
  option : t.option = s.option
  wdt : t.wdt = s.wdt
  sleeping : t.sleeping = s.sleeping
  prog : t.prog = s.prog
  params : t.params = s.params
  events : t.events = s.events

/-- A result in W or in the file register that `f` names (R113), with its flags, in one cycle or,
into PCL, two (R115). -/
def ByteResult (s t : State) (f : FileAddr) (d : Dest) (r : Byte) (flag : Nat → Option Bool) :
    Prop :=
  match d with
  | .w => WResult s t r flag
  | .f =>
    FileWrite s t (effAddr f s) r ∧ StatusAfter s t (some (effAddr f s)) r flag ∧
      t.now = s.now + (if effAddr f s = 2#5 then 2 else 1)

/-- A taken skip: one instruction further and one cycle more (R116). -/
def skipped (t : State) : State :=
  { t with pc := t.pc + 1#9, now := t.now + 1 }

/-- Everything a reset other than power-on leaves alone or sets, STATUS aside, for any W and any
stack of the machine's depth (R183). -/
def Restarted (s t : State) : Prop :=
  t =
    { s with
      w := t.w
      pc := 0x1FF#9
      stack := t.stack
      status := t.status
      cmcon0 := t.cmcon0
      trisgpio := 0xF#4
      option := 0xFF#8
      prescaler := 0#8
      wdt := 0
      sleeping := false
      events := s.events.tail
      now := s.now + 1 } ∧
    t.stack.entries.length = max 1 s.params.stackDepth ∧
    t.cmcon0 = if s.params.hasComparator then 0x7F#7 else s.cmcon0

/-- The state of R60, whatever the bits are that it leaves unknown. -/
structure PoweredOn (t : State) : Prop where
  pc : t.pc = 0x1FF#9
  gpwuf : t.status.getLsbD 7 = false
  cwuf : t.status.getLsbD 6 = false
  reserved : t.status.getLsbD 5 = false
  timeout : t.status.getLsbD 4 = true
  powerDown : t.status.getLsbD 3 = true
  fsrHigh : (readFile 4#5 t).extractLsb' 5 3 = 0b111#3
  osccal : t.osccal = 0xFE#8
  cmcon0 : t.params.hasComparator = true → (readFile 7#5 t).extractLsb' 0 7 = 0x7F#7
  trisgpio : t.trisgpio = 0xF#4
  option : t.option = 0xFF#8
  unimplemented : ∀ a : FileAddr, 8 ≤ a.toNat → a.toNat < 16 → readFile a t = 0#8
  sleeping : t.sleeping = false

end Sys2Proof.Machine

/-! ### The spec's tables -/

namespace Sys2Proof

open Machine

/-- The effective address of the file register an instruction writes, if it writes one (R113,
R138, R144). -/
def Instr.target (i : Instr) (s : State) : Option FileAddr :=
  match i with
  | .addwf f .f | .andwf f .f | .clrf f | .comf f .f | .decf f .f | .decfsz f .f | .incf f .f
  | .incfsz f .f | .iorwf f .f | .movf f .f | .movwf f | .rlf f .f | .rrf f .f | .subwf f .f
  | .swapf f .f | .xorwf f .f | .bcf f _ | .bsf f _ => some (effAddr f s)
  | .addwf _ .w | .andwf _ .w | .clrw | .comf _ .w | .decf _ .w | .decfsz _ .w | .incf _ .w
  | .incfsz _ .w | .iorwf _ .w | .movf _ .w | .nop | .rlf _ .w | .rrf _ .w | .subwf _ .w
  | .swapf _ .w | .xorwf _ .w | .btfsc _ _ | .btfss _ _ | .andlw _ | .call _ | .clrwdt | .goto _
  | .iorlw _ | .movlw _ | .option | .retlw _ | .sleep | .tris _ | .xorlw _ => none

/-- The STATUS bits an instruction affects (the table of R56): C 0, DC 1, Z 2, PD 3, TO 4. -/
def Instr.affects : Instr → List Nat
  | .addwf _ _ | .subwf _ _ => [0, 1, 2]
  | .andwf _ _ | .clrf _ | .clrw | .comf _ _ | .decf _ _ | .incf _ _ | .iorwf _ _ | .movf _ _
  | .xorwf _ _ | .andlw _ | .iorlw _ | .xorlw _ => [2]
  | .rlf _ _ | .rrf _ _ => [0]
  | .clrwdt | .sleep => [3, 4]
  | .decfsz _ _ | .incfsz _ _ | .movwf _ | .nop | .swapf _ _ | .bcf _ _ | .bsf _ _ | .btfsc _ _
  | .btfss _ _ | .call _ | .goto _ | .movlw _ | .option | .retlw _ | .tris _ => []

/-- The instruction writes W (R26). -/
def Instr.writesW : Instr → Bool
  | .addwf _ .w | .andwf _ .w | .clrw | .comf _ .w | .decf _ .w | .decfsz _ .w | .incf _ .w
  | .incfsz _ .w | .iorwf _ .w | .movf _ .w | .rlf _ .w | .rrf _ .w | .subwf _ .w | .swapf _ .w
  | .xorwf _ .w | .movlw _ | .andlw _ | .iorlw _ | .xorlw _ | .retlw _ => true
  | .addwf _ .f | .andwf _ .f | .clrf _ | .comf _ .f | .decf _ .f | .decfsz _ .f | .incf _ .f
  | .incfsz _ .f | .iorwf _ .f | .movf _ .f | .movwf _ | .nop | .rlf _ .f | .rrf _ .f
  | .subwf _ .f | .swapf _ .f | .xorwf _ .f | .bcf _ _ | .bsf _ _ | .btfsc _ _ | .btfss _ _
  | .call _ | .clrwdt | .goto _ | .option | .sleep | .tris _ => false

/-- The instruction is one of the four that may skip (R116), and its condition holds. -/
def Instr.skips (i : Instr) (s : State) : Bool :=
  match i with
  | .decfsz f _ => readOperand f s == 1#8
  | .incfsz f _ => readOperand f s == 0xFF#8
  | .btfsc f b => !(readOperand f s).getLsbD b.toNat
  | .btfss f b => (readOperand f s).getLsbD b.toNat
  | .addwf _ _ | .andwf _ _ | .clrf _ | .clrw | .comf _ _ | .decf _ _ | .incf _ _ | .iorwf _ _
  | .movf _ _ | .movwf _ | .nop | .rlf _ _ | .rrf _ _ | .subwf _ _ | .swapf _ _ | .xorwf _ _
  | .bcf _ _ | .bsf _ _ | .andlw _ | .call _ | .clrwdt | .goto _ | .iorlw _ | .movlw _ | .option
  | .retlw _ | .sleep | .tris _ | .xorlw _ => false

/-- The cycles of R200: two for CALL, GOTO and RETLW, for a taken skip and for any instruction
whose destination is PCL; one for every other. -/
def Instr.cycles (i : Instr) (s : State) : Nat :=
  match i with
  | .call _ | .goto _ | .retlw _ => 2
  | .addwf _ _ | .andwf _ _ | .clrf _ | .clrw | .comf _ _ | .decf _ _ | .decfsz _ _ | .incf _ _
  | .incfsz _ _ | .iorwf _ _ | .movf _ _ | .movwf _ | .nop | .rlf _ _ | .rrf _ _ | .subwf _ _
  | .swapf _ _ | .xorwf _ _ | .bcf _ _ | .bsf _ _ | .btfsc _ _ | .btfss _ _ | .andlw _ | .clrwdt
  | .iorlw _ | .movlw _ | .option | .sleep | .tris _ | .xorlw _ =>
    if i.skips s = true ∨ i.target s = some 2#5 then 2 else 1

/-- The instruction counts and tests (DECFSZ, INCFSZ): the two whose program counter the spec
leaves open when their destination is PCL (U6). -/
def Instr.counts : Instr → Bool
  | .decfsz _ _ | .incfsz _ _ => true
  | .addwf _ _ | .andwf _ _ | .clrf _ | .clrw | .comf _ _ | .decf _ _ | .incf _ _ | .iorwf _ _
  | .movf _ _ | .movwf _ | .nop | .rlf _ _ | .rrf _ _ | .subwf _ _ | .swapf _ _ | .xorwf _ _
  | .bcf _ _ | .bsf _ _ | .btfsc _ _ | .btfss _ _ | .andlw _ | .call _ | .clrwdt | .goto _
  | .iorlw _ | .movlw _ | .option | .retlw _ | .sleep | .tris _ | .xorlw _ => false

/-- The 58 words of R104. -/
def unassignedWord (n : Nat) : Prop :=
  n = 0x001 ∨ n = 0x005 ∨ n = 0x007 ∨ (0x008 ≤ n ∧ n ≤ 0x01F) ∨ (0x041 ≤ n ∧ n ≤ 0x05F)

end Sys2Proof

namespace Sys2Proof.Machine

/-! ### Reserved uses -/

/-- No instruction of the image counts into PCL or sets a reserved STATUS bit where it is 0 (93
part 1, `refuse`: a program in the admitted subset never does it; U4, U6, U7). -/
def State.AvoidsReservedUses (s : State) : Prop :=
  ∀ (a : Nat) (word : InstrWord) (i : Instr) (u v : State),
    Memory.lookup a s.prog = some word → decode word = .ok i → exec i u = .next v →
      ¬ (i.counts = true ∧ i.target u = some 2#5) ∧
      (u.status.getLsbD 5 = false → v.status.getLsbD 5 = false) ∧
      (s.params.strict = true → s.params.hasComparator = false →
        u.status.getLsbD 6 = false → v.status.getLsbD 6 = false)

/-! ### Timer0 as the spec writes it -/

/-- One Timer0 event, the pseudocode of R166. -/
def timer0Event (s : State) : State :=
  if s.option.getLsbD 3 = false then
    if (s.prescaler + 1#8).toNat % 2 ^ ((s.option.extractLsb' 0 3).toNat + 1) = 0 then
      { s with prescaler := s.prescaler + 1#8, tmr0 := s.tmr0 + 1#8 }
    else { s with prescaler := s.prescaler + 1#8 }
  else { s with tmr0 := s.tmr0 + 1#8 }

/-- Several events, one after the other. -/
def timer0Events : Nat → State → State
  | 0, s => s
  | n + 1, s => timer0Events n (timer0Event s)

/-- One period of the watchdog's clock (R167, R170): with PSA = 1 it goes through the prescaler. -/
def watchdogPeriod (s : State) : State :=
  if s.option.getLsbD 3 = true then
    if (s.prescaler + 1#8).toNat % 2 ^ (s.option.extractLsb' 0 3).toNat = 0 then
      { s with prescaler := s.prescaler + 1#8, wdt := s.wdt + 1 }
    else { s with prescaler := s.prescaler + 1#8 }
  else { s with wdt := s.wdt + 1 }

/-- Several periods, one after the other. -/
def watchdogPeriods : Nat → State → State
  | 0, s => s
  | n + 1, s => watchdogPeriods n (watchdogPeriod s)

/-! ### Nested calls -/

/-- Pushes addresses in turn, the last one ending on top. -/
def Stack.pushAll : List ProgAddr → Stack → Stack
  | [], k => k
  | v :: vs, k => Stack.pushAll vs (k.push v)

/-- The addresses that as many returns take, in turn. -/
def Stack.returns : Nat → Stack → List ProgAddr
  | 0, _ => []
  | n + 1, k => k.top :: Stack.returns n k.pop

end Sys2Proof.Machine
end

