-- ==== Sys2Proof/Certificates/Slice0/Obligations.lean ====
section
/-!
DEFINITION. The statements about the model. Each docstring names the rule of spec/ it formalises, or
says that it rests on a choice and names the log entry.
-/

open Sys2Proof Sys2Proof.Machine

/-! ### Encoding -/

/-- R99, R100: decoding the word of any well-formed instruction gives the instruction back. -/
def Obligations.EncodeThenDecode : Prop :=
  ∀ i : Instr, i.wellFormed = true → decode (encode i) = .ok i

/-- R99: a word that decodes is the word of the instruction it decodes to, so no bit is ignored and
no two words share a meaning; and what is decoded is well-formed (R106). -/
def Obligations.DecodeThenEncode : Prop :=
  ∀ (word : InstrWord) (i : Instr), decode word = .ok i → i.wellFormed = true ∧ encode i = word

/-- R104: exactly the 58 listed words decode to nothing, and executing one is refused by name
(the spec's decision D12; log entry 19). -/
def Obligations.UnassignedWordsAreRefused : Prop :=
  ∀ word : InstrWord,
    (decode word = .error .unassigned ↔ unassignedWord word.toNat) ∧
      (unassignedWord word.toNat →
        ∀ s : State, resetsNow s = [] → s.sleeping = false → fetch s = some word →
          step s = .refused (.unassignedOpcode word))

/-- Words written out from the patterns of R100, one of each format, decode to their instructions. -/
def Obligations.HandWrittenWordsDecode : Prop :=
  decode 0b000111110000#12 = .ok (.addwf 0x10#5 .f) ∧
    decode 0b000001110000#12 = .ok (.clrf 0x10#5) ∧
    decode 0b011010000100#12 = .ok (.btfsc 0x04#5 4#3) ∧
    decode 0b100101000000#12 = .ok (.call 0x40#8) ∧
    decode 0b101110100101#12 = .ok (.goto 0x1A5#9) ∧
    decode 0b000000000100#12 = .ok .clrwdt ∧
    decode 0b000000000110#12 = .ok (.tris 6#3)

/-! ### The step -/

/-- R28, R66, R81, R52: with no reset at this boundary and the core awake, a step whose word decodes
to `i` is `exec i` at the state whose pc has passed the instruction, and then the devices' share of
the cycles `i` took, unless the spec has the model refuse the use (ReservedUsesAreRefused). The
devices change at most TMR0, which they count under the sketch only, the watchdog count, which runs with
WDTE only, and the prescaler, for the one of the two that has it. The wrap of fetch addresses, the
advance before execution and the devices' turn between instructions are the spec's decisions D2, D4
and D17 (log entries 2, 4, 9); that the prescaler stands still without the sketch and with PSA = 0 is
the model's choice (log entry 30). -/
def Obligations.StepRunsDecodedInstruction : Prop :=
  (∀ (s : State) (word : InstrWord) (i : Instr),
    resetsNow s = [] → s.sleeping = false →
    Memory.lookup (s.pc.toNat % s.params.progWords) s.prog = some word → decode word = .ok i →
      i.wellFormed = true ∧
        step s =
          match exec i { s with pc := s.pc + 1#9, events := s.events.tail } with
          | .next t =>
            match reservedUse i { s with pc := s.pc + 1#9, events := s.events.tail } t with
            | some r => .refused r
            | none => .next (runDevices (t.now - s.now) t)
          | .fault r => .fault r
          | .refused r => .refused r) ∧
    ∀ (n : Nat) (t : State), ∃ x p c,
      runDevices n t = { t with tmr0 := x, prescaler := p, wdt := c } ∧
        (t.params.timer0Sketch = false → x = t.tmr0) ∧
        (t.params.wdte = false → c = t.wdt) ∧
        (t.option.getLsbD 3 = false → t.params.timer0Sketch = false → p = t.prescaler) ∧
        (t.option.getLsbD 3 = true → t.params.wdte = false → p = t.prescaler)

/-- R158: every instruction completes, in every state (the spec's decision D18). What the step then
refuses of it is ReservedUsesAreRefused. -/
def Obligations.EveryInstructionCompletes : Prop :=
  ∀ (i : Instr) (s : State), i.wellFormed = true → Completes i s (fun _ => True)

/-- R158, R64: while every implemented program word is given and is an instruction, the machine
stops, whatever resets come, at most by refusing a reserved use: a count into PCL (U6), a write that
would set STATUS bit 5 (R39, U4) and, on the PIC10F200 in the strict reading only, a write that would
set bit 6 (U7; log entries 15, 16, 29). A program with no reserved use never stops (the fault and the
refusals are the model's: log entries 19, 20). -/
def Obligations.CoveredProgramStopsOnlyAtReservedUse : Prop :=
  ∀ (k : Nat) (s : State), s.Covered →
    ((∃ t, Host.Core.run core k s = .next t ∧ t.Covered) ∨
      Host.Core.run core k s = .refused .countIntoPcl ∨
      Host.Core.run core k s = .refused (.reservedStatusBit 5) ∨
      (s.params.strict = true ∧ s.params.hasComparator = false ∧
        Host.Core.run core k s = .refused (.reservedStatusBit 6))) ∧
    (s.AvoidsReservedUses → ∃ t, Host.Core.run core k s = .next t ∧ t.Covered)

/-- R64, R55: no step changes the program image or a parameter. -/
def Obligations.ProgramMemoryIsFixed : Prop :=
  ∀ s t : State, step s = .next t → t.prog = s.prog ∧ t.params = s.params

/-- The invariant of Safety.lean holds after reset. -/
def Obligations.ResetSatisfiesInv : Prop :=
  State.reset.Inv

/-- The invariant of Safety.lean is kept by every step, from every state that has it: canonical data
memory (R45), a program image inside the implemented words (R8), the stack's depth (R9), the reserved
STATUS bit at 0 (R39, D8; log entry 15), and TO and PD of a sleeping core (R39). -/
def Obligations.StepKeepsInvariant : Prop :=
  ∀ s t : State, s.Inv → step s = .next t → t.Inv

/-! ### Byte-oriented file register operations -/

/-- R118, ADDWF. A destination of STATUS, of an unimplemented address or of INDF on itself rests on
the spec's decisions D7, D10 and D11 (log entries 14, 15, 17). -/
def Obligations.AddwfAddsWToFile : Prop :=
  ∀ (f : FileAddr) (d : Dest) (s : State),
    decode (0b000111#6 ++ d.bit ++ f) = .ok (.addwf f d) ∧
      Completes (.addwf f d) s fun t =>
        let v := (readOperand f s).toNat
        let w := s.w.toNat
        ByteResult s t f d (BitVec.ofNat 8 (v + w))
          (flagsCDcZ (255 < v + w) (15 < v % 16 + w % 16) ((v + w) % 256 = 0))

/-- R133, SUBWF: C and DC are inverted borrows. A destination of STATUS, of an unimplemented
address or of INDF on itself rests on the spec's decisions D7, D10 and D11 (log entries 14, 15,
17). -/
def Obligations.SubwfSubtractsWFromFile : Prop :=
  ∀ (f : FileAddr) (d : Dest) (s : State),
    decode (0b000010#6 ++ d.bit ++ f) = .ok (.subwf f d) ∧
      Completes (.subwf f d) s fun t =>
        let v := (readOperand f s).toNat
        let w := s.w.toNat
        ByteResult s t f d (BitVec.ofNat 8 (v + 256 - w))
          (flagsCDcZ (w ≤ v) (w % 16 ≤ v % 16) (v = w))

/-- R114: SUBWF's C and DC are the carries out of bits 7 and 3 of `v + ~W + 1` (an equivalence the
spec marks as derived). -/
def Obligations.SubwfFlagsAreCarriesOfTheSum : Prop :=
  ∀ (f : FileAddr) (s : State),
    Completes (.subwf f .w) s fun t =>
      let v := readOperand f s
      t.status.getLsbD 0 = decide (255 < v.toNat + (~~~s.w).toNat + 1) ∧
        t.status.getLsbD 1 = decide (15 < v.toNat % 16 + (~~~s.w).toNat % 16 + 1)

/-- R119, R127, R135: AND, inclusive OR and exclusive OR of W with f; Z alone is affected.
A destination of STATUS, of an unimplemented address or of INDF on itself rests on the spec's
decisions D7, D10 and D11 (log entries 14, 15, 17). -/
def Obligations.LogicOpsWithW : Prop :=
  ∀ (f : FileAddr) (d : Dest) (s : State),
    (decode (0b000101#6 ++ d.bit ++ f) = .ok (.andwf f d) ∧
      Completes (.andwf f d) s fun t =>
        let r := readOperand f s &&& s.w
        ByteResult s t f d r (onlyZ (r.toNat = 0))) ∧
    (decode (0b000100#6 ++ d.bit ++ f) = .ok (.iorwf f d) ∧
      Completes (.iorwf f d) s fun t =>
        let r := readOperand f s ||| s.w
        ByteResult s t f d r (onlyZ (readOperand f s = 0#8 ∧ s.w = 0#8))) ∧
    (decode (0b000110#6 ++ d.bit ++ f) = .ok (.xorwf f d) ∧
      Completes (.xorwf f d) s fun t =>
        let r := readOperand f s ^^^ s.w
        ByteResult s t f d r (onlyZ (readOperand f s = s.w)))

/-- R123, R125: decrement and increment modulo 256; Z alone is affected.
A destination of STATUS, of an unimplemented address or of INDF on itself rests on the spec's
decisions D7, D10 and D11 (log entries 14, 15, 17). -/
def Obligations.DecfAndIncfStepByOne : Prop :=
  ∀ (f : FileAddr) (d : Dest) (s : State),
    (decode (0b000011#6 ++ d.bit ++ f) = .ok (.decf f d) ∧
      Completes (.decf f d) s fun t =>
        let v := (readOperand f s).toNat
        ByteResult s t f d (BitVec.ofNat 8 (v + 255)) (onlyZ (v = 1))) ∧
    (decode (0b001010#6 ++ d.bit ++ f) = .ok (.incf f d) ∧
      Completes (.incf f d) s fun t =>
        let v := (readOperand f s).toNat
        ByteResult s t f d (BitVec.ofNat 8 (v + 1)) (onlyZ (v = 255)))

/-- R128: MOVF moves f to W or onto itself, a real write, and sets Z from it.
A destination of STATUS, of an unimplemented address or of INDF on itself rests on the spec's
decisions D7, D10 and D11 (log entries 14, 15, 17). -/
def Obligations.MovfMovesFile : Prop :=
  ∀ (f : FileAddr) (d : Dest) (s : State),
    decode (0b001000#6 ++ d.bit ++ f) = .ok (.movf f d) ∧
      Completes (.movf f d) s fun t =>
        ByteResult s t f d (readOperand f s) (onlyZ ((readOperand f s).toNat = 0))

/-- COMF is the ones' complement, FFh - v (the spec's general knowledge G13; log entry 22).
A destination of STATUS, of an unimplemented address or of INDF on itself rests on the spec's
decisions D7, D10 and D11 (log entries 14, 15, 17). -/
def Obligations.ComfComplementsFile : Prop :=
  ∀ (f : FileAddr) (d : Dest) (s : State),
    decode (0b001001#6 ++ d.bit ++ f) = .ok (.comf f d) ∧
      Completes (.comf f d) s fun t =>
        let v := (readOperand f s).toNat
        ByteResult s t f d (BitVec.ofNat 8 (255 - v)) (onlyZ (v = 255))

/-- R131, R132: the 9-bit rotates through C, one place left and one place right; Z is not
written.
A destination of STATUS, of an unimplemented address or of INDF on itself rests on the spec's
decisions D7, D10 and D11 (log entries 14, 15, 17). -/
def Obligations.RotatesGoThroughCarry : Prop :=
  ∀ (f : FileAddr) (d : Dest) (s : State),
    (decode (0b001101#6 ++ d.bit ++ f) = .ok (.rlf f d) ∧
      Completes (.rlf f d) s fun t =>
        let v := (readOperand f s).toNat
        ByteResult s t f d (BitVec.ofNat 8 (2 * v + s.status.toNat % 2)) (onlyC (128 ≤ v))) ∧
    (decode (0b001100#6 ++ d.bit ++ f) = .ok (.rrf f d) ∧
      Completes (.rrf f d) s fun t =>
        let v := (readOperand f s).toNat
        ByteResult s t f d (BitVec.ofNat 8 (v / 2 + 128 * (s.status.toNat % 2)))
          (onlyC (v % 2 = 1)))

/-- SWAPF exchanges the two nibbles and writes no flag (what is swapped is the spec's general
knowledge G14; log entry 22).
A destination of STATUS, of an unimplemented address or of INDF on itself rests on the spec's
decisions D7, D10 and D11 (log entries 14, 15, 17). -/
def Obligations.SwapfExchangesNibbles : Prop :=
  ∀ (f : FileAddr) (d : Dest) (s : State),
    decode (0b001110#6 ++ d.bit ++ f) = .ok (.swapf f d) ∧
      Completes (.swapf f d) s fun t =>
        let v := (readOperand f s).toNat
        ByteResult s t f d (BitVec.ofNat 8 (v % 16 * 16 + v / 16)) noFlags

/-- CLRF stores 00h and sets Z, MOVWF stores W and writes no flag; both behave as `d = 1`. That
neither reads its destination is the spec's general knowledge G18.
A destination of STATUS, of an unimplemented address or of INDF on itself rests on the spec's
decisions D7, D10 and D11 (log entries 14, 15, 17). -/
def Obligations.ClrfAndMovwfStore : Prop :=
  ∀ (f : FileAddr) (s : State),
    (decode (0b0000011#7 ++ f) = .ok (.clrf f) ∧
      Completes (.clrf f) s fun t => ByteResult s t f .f 0#8 (onlyZ True)) ∧
    (decode (0b0000001#7 ++ f) = .ok (.movwf f) ∧
      Completes (.movwf f) s fun t => ByteResult s t f .f s.w noFlags)

/-- CLRW clears W and sets Z and touches no file register (the spec's decision D12), NOP does
nothing but let one cycle pass. -/
def Obligations.ClrwAndNop : Prop :=
  ∀ s : State,
    (decode 0x040#12 = .ok .clrw ∧
      Completes .clrw s fun t => WResult s t 0#8 (onlyZ True)) ∧
    (decode 0x000#12 = .ok .nop ∧
      Completes .nop s fun t => t = { s with now := s.now + 1 })

/-- DECFSZ and INCFSZ store the count, write no flag, and skip when the count is zero. The form
whose destination is PCL is the next statement's. A destination of STATUS, of an unimplemented
address or of INDF on itself rests on the spec's decisions D10 and D11 (log entries 15, 17). -/
def Obligations.CountAndSkipIfZero : Prop :=
  ∀ (f : FileAddr) (d : Dest) (s : State), (d = .f → effAddr f s ≠ 2#5) →
    (decode (0b001011#6 ++ d.bit ++ f) = .ok (.decfsz f d) ∧
      Completes (.decfsz f d) s fun t =>
        let v := (readOperand f s).toNat
        ∃ u, ByteResult s u f d (BitVec.ofNat 8 (v + 255)) noFlags ∧
          t = if v = 1 then skipped u else u) ∧
    (decode (0b001111#6 ++ d.bit ++ f) = .ok (.incfsz f d) ∧
      Completes (.incfsz f d) s fun t =>
        let v := (readOperand f s).toNat
        ∃ u, ByteResult s u f d (BitVec.ofNat 8 (v + 1)) noFlags ∧
          t = if v = 255 then skipped u else u)

/-- R117, R124, R126, U6: with no reset at the boundary and the core awake, a step that fetches DECFSZ
or INCFSZ refuses it as a count into PCL exactly when its destination is PCL, directly or through
INDF. With W as the destination, PCL itself as the operand among them, or with any other register but
STATUS, whose bit 5 the count could set (ReservedUsesAreRefused), the step runs it to the next
address, or one further when it skips (R28, R116; the spec's decisions D4, D10; log entries 4, 17). -/
def Obligations.CountIntoPclIsRefused : Prop :=
  ∀ (f : FileAddr) (d : Dest) (s : State), resetsNow s = [] → s.sleeping = false →
    (fetch s = some (0b001011#6 ++ d.bit ++ f) →
      (step s = .refused .countIntoPcl ↔ d = .f ∧ effAddr f s = 2#5) ∧
      (¬ (d = .f ∧ (effAddr f s = 2#5 ∨ effAddr f s = 3#5)) →
        StepsTo s fun t => t.pc =
          if readOperand f (advancePc s) = 1#8 then s.pc + 2#9 else s.pc + 1#9)) ∧
    (fetch s = some (0b001111#6 ++ d.bit ++ f) →
      (step s = .refused .countIntoPcl ↔ d = .f ∧ effAddr f s = 2#5) ∧
      (¬ (d = .f ∧ (effAddr f s = 2#5 ∨ effAddr f s = 3#5)) →
        StepsTo s fun t => t.pc =
          if readOperand f (advancePc s) = 0xFF#8 then s.pc + 2#9 else s.pc + 1#9))

/-! ### Bit-oriented file register operations -/

/-- BCF clears bit `b`, writes the other seven bits back as they were read, and affects no flag. On
INDF naming itself, on an unimplemented address and on CMCON0 it rests on the spec's decisions D10,
D11 and D27 (log entries 8, 17). -/
def Obligations.BcfClearsBit : Prop :=
  ∀ (f : FileAddr) (b : BitVec 3) (s : State),
    decode (0b0100#4 ++ b ++ f) = .ok (.bcf f b) ∧
      Completes (.bcf f b) s fun t =>
        ∃ r, (∀ i, i < 8 →
            r.getLsbD i = if i = b.toNat then false else (readOperand f s).getLsbD i) ∧
          ByteResult s t f .f r noFlags

/-- BSF sets bit `b`, writes the other seven bits back as they were read, and affects no flag. This
is the meaning's own effect; the step then refuses BSF STATUS, 5, as R140 says
(ReservedUsesAreRefused; log entry 15). On INDF naming itself, on an unimplemented address and on
CMCON0 it rests on the spec's decisions D10, D11 and D27 (log entries 8, 17). -/
def Obligations.BsfSetsBit : Prop :=
  ∀ (f : FileAddr) (b : BitVec 3) (s : State),
    decode (0b0101#4 ++ b ++ f) = .ok (.bsf f b) ∧
      Completes (.bsf f b) s fun t =>
        ∃ r, (∀ i, i < 8 →
            r.getLsbD i = if i = b.toNat then true else (readOperand f s).getLsbD i) ∧
          ByteResult s t f .f r noFlags

/-- R141, R142: the tested bit decides the skip; nothing is written. -/
def Obligations.BitTestsSkip : Prop :=
  ∀ (f : FileAddr) (b : BitVec 3) (s : State),
    (decode (0b0110#4 ++ b ++ f) = .ok (.btfsc f b) ∧
      Completes (.btfsc f b) s fun t =>
        t = if (readOperand f s).toNat / 2 ^ b.toNat % 2 = 0
          then { s with pc := s.pc + 1#9, now := s.now + 2 } else { s with now := s.now + 1 }) ∧
    (decode (0b0111#4 ++ b ++ f) = .ok (.btfss f b) ∧
      Completes (.btfss f b) s fun t =>
        t = if (readOperand f s).toNat / 2 ^ b.toNat % 2 = 1
          then { s with pc := s.pc + 1#9, now := s.now + 2 } else { s with now := s.now + 1 })

/-! ### Literal and control operations -/

/-- R145, R149, R155: AND, inclusive OR and exclusive OR of a literal with W; Z alone is
affected. -/
def Obligations.LogicOpsWithLiteral : Prop :=
  ∀ (k : Byte) (s : State),
    (decode (0b1110#4 ++ k) = .ok (.andlw k) ∧
      Completes (.andlw k) s fun t => WResult s t (s.w &&& k) (onlyZ ((s.w &&& k).toNat = 0))) ∧
    (decode (0b1101#4 ++ k) = .ok (.iorlw k) ∧
      Completes (.iorlw k) s fun t => WResult s t (s.w ||| k) (onlyZ (s.w = 0#8 ∧ k = 0#8))) ∧
    (decode (0b1111#4 ++ k) = .ok (.xorlw k) ∧
      Completes (.xorlw k) s fun t => WResult s t (s.w ^^^ k) (onlyZ (s.w = k)))

/-- R150: MOVLW loads W, in one cycle, and changes nothing else. -/
def Obligations.MovlwLoadsLiteral : Prop :=
  ∀ (k : Byte) (s : State),
    decode (0b1100#4 ++ k) = .ok (.movlw k) ∧
      Completes (.movlw k) s fun t => t = { s with w := k, now := s.now + 1 }

/-- CALL pushes the return address, which pc holds, and jumps with bit 8 clear: entry 0 is the
return address, every other entry is the one above it, and the oldest is lost. The stack's
organisation and the value pushed are the spec's decisions D3 and D5 (log entries 3, 4). -/
def Obligations.CallPushesReturnAddress : Prop :=
  ∀ (k : Byte) (s : State),
    decode (0b1001#4 ++ k) = .ok (.call k) ∧
      Completes (.call k) s fun t =>
        t = { s with pc := BitVec.ofNat 9 k.toNat, stack := t.stack, now := s.now + 2 } ∧
          t.stack.entries.length = s.stack.entries.length ∧
          t.stack.entries[0]? = some s.pc ∧
          ∀ i, i + 1 < s.stack.entries.length →
            t.stack.entries[i + 1]? = s.stack.entries[i]?

/-- RETLW loads W and returns to the top entry, all nine bits; every entry moves up by one and the
last keeps its value. Rests on the spec's decisions D3 and D6 (log entries 3, 4). -/
def Obligations.RetlwReturnsToTopOfStack : Prop :=
  ∀ (k : Byte) (s : State),
    decode (0b1000#4 ++ k) = .ok (.retlw k) ∧
      Completes (.retlw k) s fun t =>
        t = { s with w := k, pc := t.pc, stack := t.stack, now := s.now + 2 } ∧
          some t.pc = s.stack.entries[0]? ∧
          t.stack.entries.length = s.stack.entries.length ∧
          t.stack.entries.getLast? = s.stack.entries.getLast? ∧
          ∀ i, i + 1 < s.stack.entries.length →
            t.stack.entries[i]? = s.stack.entries[i + 1]?

/-- R148: GOTO loads all nine bits and touches nothing else. -/
def Obligations.GotoLoadsNineBits : Prop :=
  ∀ (k : ProgAddr) (s : State),
    decode (0b101#3 ++ k) = .ok (.goto k) ∧
      Completes (.goto k) s fun t => t = { s with pc := k, now := s.now + 2 }

/-- Calls nested no deeper than the stack return in order; deeper ones lose the oldest address
(the organisation of R31 and R32 is the spec's decision D3; log entry 3). -/
def Obligations.NestedCallsReturnInOrder : Prop :=
  ∀ (vs : List ProgAddr) (k : Stack),
    k.entries.length = (Stack.pushAll vs k).entries.length ∧
      (vs.length ≤ k.entries.length →
        Stack.returns vs.length (Stack.pushAll vs k) = vs.reverse) ∧
      (k.entries.length ≤ vs.length →
        (Stack.pushAll vs k).entries = vs.reverse.take k.entries.length)

/-- OPTION takes W (the spec's decision D13), keeps the prescaler's count unless PSA or PS changes,
and leaves it open when one does (U9; log entries 10, 22). -/
def Obligations.OptionLoadsControlRegister : Prop :=
  ∀ s : State,
    decode 0x002#12 = .ok .option ∧
      Completes .option s fun t =>
        t = { s with option := s.w, prescaler := t.prescaler, now := s.now + 1 } ∧
          (s.w.toNat % 16 = s.option.toNat % 16 → t.prescaler = s.prescaler)

/-- TRIS 6 copies W[3:0] and nothing else (the port is GPIO by conflict C5, the operand 6 by the
spec's decision D14; log entry 19); with any other operand there is no such instruction. -/
def Obligations.TrisLoadsPortDirection : Prop :=
  ∀ s : State,
    decode 0x006#12 = .ok (.tris 6#3) ∧
      (Completes (.tris 6#3) s fun t =>
        t = { s with trisgpio := t.trisgpio, now := s.now + 1 } ∧
          ∀ i, i < 4 → t.trisgpio.getLsbD i = s.w.getLsbD i) ∧
      ∀ f : BitVec 3, f ≠ 6#3 → exec (.tris f) s = .refused (.undefinedPort f)

/-- CLRWDT sets TO and PD, SLEEP sets TO, clears PD and stops the core; both clear the watchdog
count, and the prescaler when PSA = 1 (that clause is the spec's decision D30; log entry 25). -/
def Obligations.ClrwdtAndSleep : Prop :=
  ∀ s : State,
    (decode 0x004#12 = .ok .clrwdt ∧
      Completes .clrwdt s fun t =>
        t = { s with
              wdt := 0
              prescaler := if s.option.getLsbD 3 = true then 0#8 else s.prescaler
              status := t.status
              now := s.now + 1 } ∧
          ∀ i, i < 8 →
            t.status.getLsbD i = if i = 4 ∨ i = 3 then true else s.status.getLsbD i) ∧
    (decode 0x003#12 = .ok .sleep ∧
      Completes .sleep s fun t =>
        t = { s with
              wdt := 0
              prescaler := if s.option.getLsbD 3 = true then 0#8 else s.prescaler
              status := t.status
              sleeping := true
              now := s.now + 1 } ∧
          ∀ i, i < 8 →
            t.status.getLsbD i =
              if i = 4 then true else if i = 3 then false else s.status.getLsbD i)

/-! ### Rules over all instructions -/

/-- R56: a STATUS bit that is not in an instruction's row is not written as a flag: it changes only
when STATUS is the destination, and TO and PD not even then (R37). -/
def Obligations.OnlyListedFlagsAreAffected : Prop :=
  ∀ (i : Instr) (s t : State) (bit : Nat), exec i s = .next t → bit ∉ i.affects →
    i.target s ≠ some 3#5 ∨ bit = 3 ∨ bit = 4 →
      t.status.getLsbD bit = s.status.getLsbD bit

/-- R26, R31, R46, R47, R53, R67, R68: W, the stack, TRISGPIO, OPTION and SLEEPING are written by the
instructions the spec names for each, and by no other; no instruction touches the image, the
parameters or the reset sources. -/
def Obligations.RegistersHaveTheirWriters : Prop :=
  ∀ (i : Instr) (s t : State), exec i s = .next t →
    (i.writesW = false → t.w = s.w) ∧
      ((∀ k, i ≠ .call k) → (∀ k, i ≠ .retlw k) → t.stack = s.stack) ∧
      (i ≠ .tris 6#3 → t.trisgpio = s.trisgpio) ∧
      (i ≠ .option → t.option = s.option) ∧
      (i ≠ .sleep → t.sleeping = s.sleeping) ∧
      t.prog = s.prog ∧ t.params = s.params ∧ t.events = s.events

/-- R71, R113: a file register changes only when it is the instruction's effective destination; every
byte of data memory outside it reads as before. -/
def Obligations.OnlyTheDestinationFileChanges : Prop :=
  ∀ (i : Instr) (s t : State), exec i s = .next t →
    (∀ n, (∀ a, i.target s = some a → a.toNat ≠ n) →
        Memory.read n t.ram = Memory.read n s.ram) ∧
      (i.target s ≠ some 1#5 → t.tmr0 = s.tmr0) ∧
      (i.target s ≠ some 4#5 → t.fsr = s.fsr) ∧
      (i.target s ≠ some 5#5 → t.osccal = s.osccal) ∧
      (i.target s ≠ some 6#5 → t.gplat = s.gplat) ∧
      (i.target s ≠ some 7#5 → t.cmcon0 = s.cmcon0)

/-- R51, R168: the prescaler changes only by a write to TMR0 with PSA = 0, which clears it, by CLRWDT
and SLEEP with PSA = 1, which clear it, and by OPTION; the watchdog count only by CLRWDT and SLEEP.
The clause on CLRWDT and SLEEP is the spec's decision D30 (log entry 25). -/
def Obligations.PrescalerAndWatchdogClears : Prop :=
  ∀ (i : Instr) (s t : State), exec i s = .next t →
    (i.target s = some 1#5 → t.prescaler = if s.option.getLsbD 3 then s.prescaler else 0#8) ∧
      (i.target s ≠ some 1#5 → i ≠ .clrwdt → i ≠ .sleep → i ≠ .option →
        t.prescaler = s.prescaler) ∧
      (i ≠ .clrwdt → i ≠ .sleep → t.wdt = s.wdt)

/-- R29: the ways an instruction changes pc from its sequential value. GOTO loads nine bits; CALL and
a write to PCL load eight and clear bit 8; RETLW takes the top of the stack (the spec's decision
D6); a skip adds one. DECFSZ and INCFSZ into PCL are open (U6, log entry 16). -/
def Obligations.WaysPcChanges : Prop :=
  ∀ (i : Instr) (s t : State), exec i s = .next t →
    (i.counts = true ∧ i.target s = some 2#5) ∨
      (∃ k, i = .goto k ∧ t.pc = k) ∨
      (∃ k, i = .call k ∧ t.pc = BitVec.ofNat 9 k.toNat) ∨
      (∃ k, i = .retlw k ∧ t.pc = s.stack.top) ∨
      (i.counts = false ∧ i.target s = some 2#5 ∧ t.pc.getLsbD 8 = false) ∨
      (i.target s ≠ some 2#5 ∧ i.skips s = true ∧ t.pc = s.pc + 1#9) ∨
      (i.target s ≠ some 2#5 ∧ i.skips s = false ∧ t.pc = s.pc)

/-- The cycle counts of R200 (the two cycles of a write to PCL are the spec's decision D29; log entry
23). -/
def Obligations.CycleCounts : Prop :=
  ∀ (i : Instr) (s t : State), exec i s = .next t → t.now = s.now + i.cycles s

/-- R72: an instruction that names INDF does to the register FSR points at what the same instruction
does that names this register itself, and no instruction changes FSR but one whose destination FSR
is. FSR pointing at INDF itself is the statement IndfOnItself. -/
def Obligations.IndirectActsOnWhatFsrNames : Prop :=
  ∀ (s : State) (d : Dest) (b : BitVec 3), s.fsr ≠ 0#5 →
    exec (.addwf 0#5 d) s = exec (.addwf s.fsr d) s ∧
    exec (.andwf 0#5 d) s = exec (.andwf s.fsr d) s ∧
    exec (.clrf 0#5) s = exec (.clrf s.fsr) s ∧
    exec (.comf 0#5 d) s = exec (.comf s.fsr d) s ∧
    exec (.decf 0#5 d) s = exec (.decf s.fsr d) s ∧
    exec (.decfsz 0#5 d) s = exec (.decfsz s.fsr d) s ∧
    exec (.incf 0#5 d) s = exec (.incf s.fsr d) s ∧
    exec (.incfsz 0#5 d) s = exec (.incfsz s.fsr d) s ∧
    exec (.iorwf 0#5 d) s = exec (.iorwf s.fsr d) s ∧
    exec (.movf 0#5 d) s = exec (.movf s.fsr d) s ∧
    exec (.movwf 0#5) s = exec (.movwf s.fsr) s ∧
    exec (.rlf 0#5 d) s = exec (.rlf s.fsr d) s ∧
    exec (.rrf 0#5 d) s = exec (.rrf s.fsr d) s ∧
    exec (.subwf 0#5 d) s = exec (.subwf s.fsr d) s ∧
    exec (.swapf 0#5 d) s = exec (.swapf s.fsr d) s ∧
    exec (.xorwf 0#5 d) s = exec (.xorwf s.fsr d) s ∧
    exec (.bcf 0#5 b) s = exec (.bcf s.fsr b) s ∧
    exec (.bsf 0#5 b) s = exec (.bsf s.fsr b) s ∧
    exec (.btfsc 0#5 b) s = exec (.btfsc s.fsr b) s ∧
    exec (.btfss 0#5 b) s = exec (.btfss s.fsr b) s ∧
    ∀ (i : Instr) (t : State), exec i s = .next t → i.target s ≠ some 4#5 → t.fsr = s.fsr

/-! ### The register file -/

/-- R70: what a read of each file address returns. TMR0 is the count under the sketch of R166 with
the instruction clock, else a draw (D24, log entry 9); GPIO's bits are DrivenPinsReadTheLatch's; the
top bits of FSR are the spec's decision D9 (log entry 18), and INDF on itself its decision D10 (log
entry 17). -/
def Obligations.FileReadMap : Prop :=
  ∀ s : State,
    readFile 0#5 s = 0#8 ∧
      (readFile 1#5 s =
        if s.params.timer0Sketch = true ∧ s.option.getLsbD 5 = false ∧
            (s.params.hasComparator = true → s.cmcon0.getLsbD 4 = true)
          then s.tmr0 else Config.timer0Reading s.now) ∧
      readFile 2#5 s = BitVec.ofNat 8 (s.pc.toNat % 256) ∧
      readFile 3#5 s = s.status ∧
      (readFile 4#5 s).toNat = 0xE0 + s.fsr.toNat ∧
      readFile 5#5 s = s.osccal ∧
      (readFile 6#5 s).toNat < 16 ∧
      (s.params.hasComparator = true →
        (∀ i, i < 7 → (readFile 7#5 s).getLsbD i = s.cmcon0.getLsbD i) ∧
          (readFile 7#5 s).getLsbD 7 = Config.comparatorOutput s.now) ∧
      (s.params.hasComparator = false → readFile 7#5 s = 0#8) ∧
      (∀ a : FileAddr, 8 ≤ a.toNat → a.toNat < 16 → readFile a s = 0#8) ∧
      ∀ a : FileAddr, 16 ≤ a.toNat → readFile a s = Memory.read a.toNat s.ram

/-- R71, R77 with R28, R36: what the instruction after MOVWF reads from the register that MOVWF has
written, directly or through INDF, at every file address. Its pc has passed it and the devices have
had the cycles of MOVWF, so PCL reads W + 1, and TMR0, under the sketch with the instruction clock,
the value after one more cycle (no prescaler) or W (the prescaler, just cleared, has not come round),
else a draw. The general purpose registers and OSCCAL return the value, STATUS all but TO and PD, FSR
its low five bits under 111, CMCON0 all but CMPOUT; GPIO returns the written bit only on a pin the
port drives; INDF on itself and an unimplemented address return 00h. Rests on the spec's decisions
D4, D8 to D11, D24, D25, D27 and D31 (log entries 4, 7, 8, 9, 15, 17, 18). -/
def Obligations.ReadBackAfterMovwf : Prop :=
  ∀ (f : FileAddr) (s : State),
    Completes (.movwf f) s fun t =>
      let a := effAddr f s
      let u := advancePc (runDevices (t.now - s.now) t)
      (a = 0#5 → readFile a u = 0#8) ∧
        (a = 1#5 → readFile a u =
          if s.params.timer0Sketch = true ∧ s.option.getLsbD 5 = false ∧
              (s.params.hasComparator = true → s.cmcon0.getLsbD 4 = true)
            then if s.option.getLsbD 3 = true then s.w + 1#8 else s.w
            else Config.timer0Reading (s.now + 1)) ∧
        (a = 2#5 → readFile a u = s.w + 1#8) ∧
        (a = 3#5 → ∀ i, i < 8 →
          (readFile a u).getLsbD i =
            if i = 3 ∨ i = 4 then s.status.getLsbD i else s.w.getLsbD i) ∧
        (a = 4#5 → (readFile a u).toNat = 0xE0 + s.w.toNat % 32) ∧
        (a = 5#5 → readFile a u = s.w) ∧
        (a = 6#5 → ∀ i,
          (i < 3 → s.trisgpio.getLsbD i = false →
            (i = 2 → s.option.getLsbD 5 = false ∧ s.osccal.getLsbD 0 = false ∧
              (s.params.hasComparator = true → s.cmcon0.getLsbD 6 = true)) →
            (readFile a u).getLsbD i = s.w.getLsbD i) ∧
          (i < 4 →
            (s.trisgpio.getLsbD i = true ∨ i = 3 ∨
              (i = 2 ∧
                (s.option.getLsbD 5 = true ∨ s.osccal.getLsbD 0 = true ∨
                  (s.params.hasComparator = true ∧ s.cmcon0.getLsbD 6 = false)))) →
            (readFile a u).getLsbD i =
              if s.option.getLsbD 6 = false ∧ i ≠ 2 ∧
                  (Config.outsideDrives (s.now + 1)).getLsbD i = false
                then true else (Config.pinLevels (s.now + 1)).getLsbD i) ∧
          (4 ≤ i → (readFile a u).getLsbD i = false)) ∧
        (a = 7#5 → s.params.hasComparator = true → ∀ i, i < 8 →
          (readFile a u).getLsbD i =
            if i = 7 then Config.comparatorOutput (s.now + 1) else s.w.getLsbD i) ∧
        (a = 7#5 → s.params.hasComparator = false → readFile a u = 0#8) ∧
        (8 ≤ a.toNat → a.toNat < 16 → readFile a u = 0#8) ∧
        (16 ≤ a.toNat → readFile a u = s.w)

/-- INDF pointing at itself reads 00h and stores nothing; the flags are set all the same (the spec's
decision D10; log entry 17). -/
def Obligations.IndfOnItself : Prop :=
  ∀ s : State, s.fsr = 0#5 →
    readOperand 0#5 s = 0#8 ∧
      (Completes (.movwf 0#5) s fun t => t = { s with now := s.now + 1 }) ∧
      Completes (.clrf 0#5) s fun t =>
        t = { s with status := t.status, now := s.now + 1 } ∧ t.status.getLsbD 2 = true

/-- R42, R49, R173, R199: GPIO reads the latch on a pin the port drives, and never on another. The
port drives GP0 and GP1 when their TRISGPIO bit is 0, GP2 when also T0CS = 0, FOSC4 = 0 and the
comparator output is not on it, and never GP3. A pin it does not drive reads 1 where the weak
pull-ups are on (GPPU = 0; not on GP2) and nothing outside drives it, and the outside world's level
else. GPIO bits 7 to 4 read 0. Rests on the spec's decisions D25 and D31 and its general knowledge
G8 and G9 (log entries 7, 8). -/
def Obligations.DrivenPinsReadTheLatch : Prop :=
  ∀ s : State,
    (∀ i, i < 2 → s.trisgpio.getLsbD i = false →
        (readFile 6#5 s).getLsbD i = s.gplat.getLsbD i) ∧
      (s.trisgpio.getLsbD 2 = false → s.option.getLsbD 5 = false → s.osccal.getLsbD 0 = false →
        (s.params.hasComparator = true → s.cmcon0.getLsbD 6 = true) →
        (readFile 6#5 s).getLsbD 2 = s.gplat.getLsbD 2) ∧
      (∀ i, i < 4 →
        (s.trisgpio.getLsbD i = true ∨ i = 3 ∨
          (i = 2 ∧
            (s.option.getLsbD 5 = true ∨ s.osccal.getLsbD 0 = true ∨
              (s.params.hasComparator = true ∧ s.cmcon0.getLsbD 6 = false)))) →
        (readFile 6#5 s).getLsbD i =
          if s.option.getLsbD 6 = false ∧ i ≠ 2 ∧ (Config.outsideDrives s.now).getLsbD i = false
          then true else (Config.pinLevels s.now).getLsbD i) ∧
      ∀ i, 4 ≤ i → (readFile 6#5 s).getLsbD i = false

/-- R78: BCF and BSF on GPIO rewrite all four latch bits from the pins, whatever the latch held, but
for the addressed bit; MOVF GPIO,1 copies the pins into the latch. -/
def Obligations.PortReadModifyWriteUsesPins : Prop :=
  ∀ (b : BitVec 3) (s : State),
    (Completes (.bcf 6#5 b) s fun t => ∀ i, i < 4 →
        t.gplat.getLsbD i = if i = b.toNat then false else pinLevel s i) ∧
      (Completes (.bsf 6#5 b) s fun t => ∀ i, i < 4 →
        t.gplat.getLsbD i = if i = b.toNat then true else pinLevel s i) ∧
      Completes (.movf 6#5 .f) s fun t => ∀ i, i < 4 → t.gplat.getLsbD i = pinLevel s i

/-- Memories in canonical form that read the same everywhere are equal (the model's representation
of R45; log entry 21). -/
def Obligations.EqualReadsMeanEqualMemories : Prop :=
  ∀ m n : List Host.Cell, Memory.wf m = true → Memory.wf n = true →
    (∀ a, Memory.read a m = Memory.read a n) → m = n

/-! ### Timer0 -/

/-- The closed form the step uses is the pseudocode of R166, repeated (the sketch the spec offers,
D24; log entry 9). -/
def Obligations.Timer0ClosedFormIsTheSketch : Prop :=
  ∀ (n : Nat) (s : State), countTimer0 n s = timer0Events n s

/-- The closed form of the watchdog's count is one clock period after another, one count for every
`2^PS` of them when the prescaler is the watchdog's (R50, R167, R170; log entry 11). -/
def Obligations.WatchdogClosedFormCountsPeriods : Prop :=
  ∀ (n : Nat) (s : State), countWatchdog n s = watchdogPeriods n s

/-- Under the sketch of R166 a step that runs an instruction leaves in TMR0 what the spec's
pseudocode leaves of the state after the instruction's own effect, one event for each of its cycles
with the instruction clock, or as many as the outside world supplies with an outside clock; with
PSA = 0 the prescaler too. So with PSA = 1 TMR0 counts the cycles of an instruction that does not
write it. The order of effect and count is the model's (log entry 9). -/
def Obligations.Timer0CountsCyclesUnderSketch : Prop :=
  ∀ (s u t : State) (word : InstrWord) (i : Instr),
    s.params.timer0Sketch = true → resetsNow s = [] → s.sleeping = false →
    fetch s = some word → decode word = .ok i →
    exec i (advancePc (passBoundary s)) = .next u → step s = .next t →
      (u.option.getLsbD 5 = false →
        (u.params.hasComparator = true → u.cmcon0.getLsbD 4 = true) →
        let v := timer0Events (i.cycles (advancePc (passBoundary s))) u
        t.tmr0 = v.tmr0 ∧ (u.option.getLsbD 3 = false → t.prescaler = v.prescaler) ∧
          (u.option.getLsbD 3 = true → i.target (advancePc (passBoundary s)) ≠ some 1#5 →
            t.tmr0 = s.tmr0 + BitVec.ofNat 8 (i.cycles (advancePc (passBoundary s))))) ∧
      (u.option.getLsbD 5 = true ∨
          (u.params.hasComparator = true ∧ u.cmcon0.getLsbD 4 = false) →
        let v := timer0Events (Config.timer0Edges u.now (u.option.getLsbD 4)) u
        t.tmr0 = v.tmr0 ∧ (u.option.getLsbD 3 = false → t.prescaler = v.prescaler))

/-! ### Resets and sleep -/

/-- R60, R162, R184: what a power-on reset leaves, whatever the unknown values are and whatever else
resets the device at the same instant; and State.reset is one such state. Bit 8 of pc is the spec's
decision D22, the top bits of FSR its decision D9, the dominance its decision D19 (log entries 12,
18, 26). -/
def Obligations.PowerOnResetValues : Prop :=
  (∀ (s : State) (ks : List ResetKind) (rest : List (List ResetKind)),
      s.events = ks :: rest → .powerOn ∈ ks →
      StepsTo s fun t =>
        PoweredOn t ∧ t.prog = s.prog ∧ t.params = s.params ∧ t.events = rest) ∧
    PoweredOn State.reset

/-- R160, R183, R189: MCLR and watchdog resets, when enabled, awake or asleep: the registers of
R183's right-hand column, GPWUF and CWUF cleared, TO cleared by the watchdog only, every other
STATUS bit kept. Rests on the spec's decision D20 (log entry 13). -/
def Obligations.MclrAndWatchdogResets : Prop :=
  ∀ (s : State) (rest : List (List ResetKind)),
    (s.events = [.mclr] :: rest → s.params.mclre = true →
      StepsTo s fun t => Restarted s t ∧ ∀ i, i < 8 →
        t.status.getLsbD i = if i = 7 ∨ i = 6 then false else s.status.getLsbD i) ∧
    (s.events = [.watchdog] :: rest → s.params.wdte = true →
      StepsTo s fun t => Restarted s t ∧ ∀ i, i < 8 →
        t.status.getLsbD i = if i = 7 ∨ i = 6 ∨ i = 4 then false else s.status.getLsbD i)

/-- R160, R187, R188, R189: the wake-ups from Sleep on pin change and on comparator change, when
armed: GPWUF, respectively CWUF, is set and the other cleared, every other STATUS bit kept. Rests
on the spec's decisions D20 and D27 (log entries 8, 13). -/
def Obligations.WakeUpResets : Prop :=
  ∀ (s : State) (rest : List (List ResetKind)), s.sleeping = true →
    (s.events = [.pinChange] :: rest → s.option.getLsbD 7 = false →
      StepsTo s fun t => Restarted s t ∧ ∀ i, i < 8 →
        t.status.getLsbD i = if i = 7 then true else if i = 6 then false else s.status.getLsbD i) ∧
    (s.events = [.comparatorChange] :: rest → s.params.hasComparator = true →
      s.cmcon0.getLsbD 0 = false →
      StepsTo s fun t => Restarted s t ∧ ∀ i, i < 8 →
        t.status.getLsbD i = if i = 7 then false else if i = 6 then true else s.status.getLsbD i)

/-- R161: a cause that is not enabled does not reset the device and leaves nothing pending, alone or
beside others: the step is the one without it. -/
def Obligations.DisabledResetsDoNothing : Prop :=
  ∀ (s : State) (k : ResetKind) (ks : List ResetKind) (rest : List (List ResetKind)),
    s.events = ks :: rest →
    (k = .mclr ∧ s.params.mclre = false) ∨ (k = .watchdog ∧ s.params.wdte = false) ∨
      (k = .pinChange ∧ (s.sleeping = false ∨ s.option.getLsbD 7 = true)) ∨
      (k = .comparatorChange ∧
        (s.sleeping = false ∨ s.params.hasComparator = false ∨ s.cmcon0.getLsbD 0 = true)) →
    step s = step { s with events := ks.filter (fun j => decide (j ≠ k)) :: rest }

/-- R53, R178: a core asleep with no reset happening executes nothing: it stays asleep, and nothing
but the time, the watchdog count and the prescaler the watchdog may own changes (that a step asleep
is one cycle is log entry 24). -/
def Obligations.SleepingCoreExecutesNothing : Prop :=
  ∀ s : State, s.sleeping = true → resetsNow s = [] →
    StepsTo s fun t =>
      t = { s with
            events := s.events.tail
            now := s.now + 1
            wdt := t.wdt
            prescaler := t.prescaler } ∧
        (s.option.getLsbD 3 = false → t.prescaler = s.prescaler)

/-- R179: if none of the wake-up sources is enabled, a sleeping core stays asleep for ever, with every
register as it was. The arming of the comparator's wake-up is the spec's decision D27 (log entry
8). -/
def Obligations.SleepsForeverWithoutWakeUp : Prop :=
  ∀ (k : Nat) (s : State), s.sleeping = true → s.NoWakeUp →
    Host.Core.run core k s = .next { s with events := s.events.drop k, now := s.now + k }

/-- R53, R163: SLEEPING is set by SLEEP and cleared by every reset; an awake core is asleep after a
step only if the step ran SLEEP. Bit 8 of pc after a reset is the spec's decision D22 (log entry
26). -/
def Obligations.OnlySleepStopsTheCore : Prop :=
  ∀ s t : State, step s = .next t →
    (resetsNow s ≠ [] → t.sleeping = false ∧ t.pc = 0x1FF#9) ∧
      (s.sleeping = false → t.sleeping = true → fetch s = some 0x003#12)

/-- R162: causes that coincide are all applied, in their order, so either order is admitted: GPWUF
and CWUF are those of the last cause, TO is cleared if the watchdog is among them, every other
STATUS bit is kept, and the registers are those of one reset (the spec's decisions D19 and D20; log
entries 12, 13). -/
def Obligations.CoincidingResetsAreAllApplied : Prop :=
  ∀ (s : State) (ks : List ResetKind) (rest : List (List ResetKind)),
    s.events = ks :: rest → ks ≠ [] → .powerOn ∉ ks → (∀ k, k ∈ ks → k.Enabled s) →
      StepsTo s fun t => Restarted s t ∧ ∀ i, i < 8 →
        t.status.getLsbD i =
          if i = 7 then decide (ks.getLast? = some .pinChange)
          else if i = 6 then decide (ks.getLast? = some .comparatorChange)
          else if i = 4 then s.status.getLsbD 4 && decide (.watchdog ∉ ks)
          else s.status.getLsbD i

/-! ### Reserved uses -/

/-- R14, R39, R117, R124, R126, R140 and U4, U6, U7: the step refuses DECFSZ and INCFSZ into PCL and
any instruction that would set STATUS bit 5, BSF STATUS, 5 among them, so that bit 5 stays 0; on the
PIC10F200 with the parameter `strict` also a write that would set bit 6; and nothing else that has an
effect. That a write sets a bit which is 0 before it and 1 after it is log entry 15, the parameter
log entry 29. -/
def Obligations.ReservedUsesAreRefused : Prop :=
  (∀ (s t : State) (word : InstrWord) (i : Instr),
    resetsNow s = [] → s.sleeping = false →
    fetch s = some word → decode word = .ok i → exec i (advancePc (passBoundary s)) = .next t →
      if i.counts = true ∧ i.target (advancePc (passBoundary s)) = some 2#5 then
        step s = .refused .countIntoPcl
      else if s.status.getLsbD 5 = false ∧ t.status.getLsbD 5 = true then
        step s = .refused (.reservedStatusBit 5)
      else if s.params.strict = true ∧ s.params.hasComparator = false ∧
          s.status.getLsbD 6 = false ∧ t.status.getLsbD 6 = true then
        step s = .refused (.reservedStatusBit 6)
      else step s = .next (runDevices (t.now - s.now) t)) ∧
    (∀ s : State, resetsNow s = [] → s.sleeping = false →
      (fetch s = some 0b001011100010#12 ∨ fetch s = some 0b001111100010#12 →
        step s = .refused .countIntoPcl) ∧
      (fetch s = some 0b010110100011#12 → s.status.getLsbD 5 = false →
        step s = .refused (.reservedStatusBit 5))) ∧
    ∀ s t : State, s.status.getLsbD 5 = false → step s = .next t → t.status.getLsbD 5 = false
end

