-- ==== Sys2Proof/Laws/Flags.lean ====
section
/-!
SUPPORT. The flag and bit operations, bit by bit.
-/

namespace Sys2Proof.Machine

/-- One bit has the value, every other keeps its own. -/
theorem putBit_getLsbD (i j : Nat) (b : Bool) (v : Byte) (hj : j < 8) :
    (putBit i b v).getLsbD j = if j = i then b else v.getLsbD j := by
  have h1 : (1#8 <<< i).getLsbD j = decide (j = i) := by
    rw [BitVec.getLsbD_shiftLeft, BitVec.getLsbD_one, Bool.eq_iff_iff]
    simp only [hj, decide_true, Bool.true_and, Bool.and_eq_true, Bool.not_eq_true',
      decide_eq_false_iff_not, decide_eq_true_eq]
    omega
  unfold putBit
  cases b
  · simp only [Bool.false_eq_true, ↓reduceIte, BitVec.getLsbD_and, BitVec.getLsbD_not, hj, h1,
      decide_true, Bool.true_and]
    by_cases h : j = i <;> simp [h]
  · simp only [↓reduceIte, BitVec.getLsbD_or, h1]
    by_cases h : j = i <;> simp [h]

/-- Writing a bit at or above 8 is not asked of any STATUS bit; below 8 nothing outside changes. -/
theorem putBit_getLsbD_ne (i j : Nat) (b : Bool) (v : Byte) (h : j ≠ i) :
    (putBit i b v).getLsbD j = v.getLsbD j := by
  by_cases hj : j < 8
  · simp [putBit_getLsbD i j b v hj, h]
  · simp [BitVec.getLsbD_of_ge _ _ (by omega : 8 ≤ j)]

/-- The affected bits with their values, by bit number. -/
def FlagUpdate.bits (u : FlagUpdate) : Nat → Option Bool
  | 0 => u.c
  | 1 => u.dc
  | 2 => u.z
  | _ => none

theorem putFlag_getLsbD (i j : Nat) (flag : Option Bool) (v : Byte) (hj : j < 8) :
    (putFlag i flag v).getLsbD j = if j = i then flag.getD (v.getLsbD j) else v.getLsbD j := by
  cases flag with
  | none => simp [putFlag]
  | some b => simp [putFlag, putBit_getLsbD i j b v hj]

/-- Each affected flag has its value, every other STATUS bit keeps its own. -/
theorem FlagUpdate.apply_getLsbD (u : FlagUpdate) (v : Byte) (j : Nat) (hj : j < 8) :
    (u.apply v).getLsbD j = (u.bits j).getD (v.getLsbD j) := by
  unfold FlagUpdate.apply
  rw [putFlag_getLsbD _ _ _ _ hj, putFlag_getLsbD _ _ _ _ hj, putFlag_getLsbD _ _ _ _ hj]
  match j, hj with
  | 0, _ => simp [FlagUpdate.bits]
  | 1, _ => simp [FlagUpdate.bits]
  | 2, _ => simp [FlagUpdate.bits]
  | 3, _ | 4, _ | 5, _ | 6, _ | 7, _ => simp [FlagUpdate.bits]

@[simp] theorem FlagUpdate.apply_nothing (v : Byte) : FlagUpdate.nothing.apply v = v := rfl

/-- A data write to STATUS takes every bit but TO and PD. -/
theorem statusWrite_getLsbD (v st : Byte) (j : Nat) (hj : j < 8) :
    (statusWrite v st).getLsbD j = if j = 3 ∨ j = 4 then st.getLsbD j else v.getLsbD j := by
  unfold statusWrite
  match j, hj with
  | 0, _ | 1, _ | 2, _ | 3, _ | 4, _ | 5, _ | 6, _ | 7, _ => simp

theorem putTimeoutPowerDown_getLsbD (x y : Bool) (v : Byte) (j : Nat) (hj : j < 8) :
    (putTimeoutPowerDown x y v).getLsbD j =
      if j = 4 then x else if j = 3 then y else v.getLsbD j := by
  unfold putTimeoutPowerDown
  rw [putBit_getLsbD _ _ _ _ hj, putBit_getLsbD _ _ _ _ hj]

theorem putWakeFlags_getLsbD (x y : Bool) (v : Byte) (j : Nat) (hj : j < 8) :
    (putWakeFlags x y v).getLsbD j = if j = 7 then x else if j = 6 then y else v.getLsbD j := by
  unfold putWakeFlags
  rw [putBit_getLsbD _ _ _ _ hj, putBit_getLsbD _ _ _ _ hj]

end Sys2Proof.Machine
end

