-- ==== Sys2Proof/Laws/Memory.lean ====
section
/-!
SUPPORT. What the memory operations do, and that they keep the canonical form.
-/

namespace Sys2Proof.Machine

variable {n : Nat}

theorem Memory.lookup_insert (a b : Nat) (v : BitVec n) (m : List (Nat × BitVec n)) :
    Memory.lookup a (Memory.insert b v m) = if a = b then some v else Memory.lookup a m := by
  induction m with
  | nil => simp [Memory.insert, Memory.lookup]
  | cons c m ih =>
    simp only [Memory.insert]
    split
    · simp [Memory.lookup]
    · split
      · subst b; simp only [Memory.lookup]; split <;> rfl
      · simp only [Memory.lookup, ih]; split <;> split <;> first | rfl | omega

theorem Memory.lookup_erase (a b : Nat) (m : List (Nat × BitVec n)) :
    Memory.lookup a (Memory.erase b m) = if a = b then none else Memory.lookup a m := by
  induction m with
  | nil => simp [Memory.erase, Memory.lookup]
  | cons c m ih =>
    simp only [Memory.erase, List.filter_cons] at ih ⊢
    by_cases hc : c.1 = b
    · simp only [hc, bne_self_eq_false, Bool.false_eq_true, ↓reduceIte, ih, Memory.lookup]
      split <;> rfl
    · simp only [bne_iff_ne, ne_eq, hc, not_false_eq_true, ↓reduceIte, Memory.lookup, ih]
      by_cases ha : a = c.1 <;> by_cases hb : a = b <;> simp_all

/-- The read of one byte after the write of one byte. -/
@[simp] theorem Memory.read_write (a b : Nat) (v : Byte) (m : List Host.Cell) :
    Memory.read a (Memory.write b v m) = if a = b then v else Memory.read a m := by
  unfold Memory.read Memory.write
  split
  · rename_i h; rw [Memory.lookup_erase]; split <;> simp [h]
  · rw [Memory.lookup_insert]; split <;> simp

theorem Memory.sorted_mono {lo lo' hi : Nat} (h : lo' ≤ lo) {m : List (Nat × BitVec n)}
    (hm : Memory.sorted lo hi m = true) : Memory.sorted lo' hi m = true := by
  cases m with
  | nil => rfl
  | cons c m =>
    simp only [Memory.sorted, Bool.and_eq_true, decide_eq_true_eq] at hm ⊢
    exact ⟨⟨by omega, hm.1.2⟩, hm.2⟩

theorem Memory.sorted_insert {lo hi a : Nat} (v : BitVec n) {m : List (Nat × BitVec n)}
    (hm : Memory.sorted lo hi m = true) (hlo : lo ≤ a) (hhi : a < hi) :
    Memory.sorted lo hi (Memory.insert a v m) = true := by
  induction m generalizing lo with
  | nil => simp [Memory.insert, Memory.sorted, hlo, hhi]
  | cons c m ih =>
    simp only [Memory.sorted, Bool.and_eq_true, decide_eq_true_eq] at hm
    simp only [Memory.insert]
    split
    · simp only [Memory.sorted, Bool.and_eq_true, decide_eq_true_eq]
      exact ⟨⟨hlo, hhi⟩, ⟨by omega, hm.1.2⟩, hm.2⟩
    · split
      · subst a
        simp only [Memory.sorted, Bool.and_eq_true, decide_eq_true_eq]
        exact ⟨⟨hlo, hhi⟩, hm.2⟩
      · simp only [Memory.sorted, Bool.and_eq_true, decide_eq_true_eq]
        exact ⟨hm.1, ih hm.2 (by omega)⟩

theorem Memory.sorted_filter {lo hi : Nat} (p : Nat × BitVec n → Bool)
    {m : List (Nat × BitVec n)} (hm : Memory.sorted lo hi m = true) :
    Memory.sorted lo hi (m.filter p) = true := by
  induction m generalizing lo with
  | nil => rfl
  | cons c m ih =>
    simp only [Memory.sorted, Bool.and_eq_true, decide_eq_true_eq] at hm
    rw [List.filter_cons]
    split
    · simp only [Memory.sorted, Bool.and_eq_true, decide_eq_true_eq]
      exact ⟨hm.1, ih hm.2⟩
    · exact Memory.sorted_mono (by omega) (ih hm.2)

theorem Memory.mem_insert {a : Nat} {v : BitVec n} {m : List (Nat × BitVec n)}
    {c : Nat × BitVec n} (h : c ∈ Memory.insert a v m) : c = (a, v) ∨ c ∈ m := by
  induction m with
  | nil => simpa [Memory.insert] using h
  | cons b m ih =>
    simp only [Memory.insert] at h
    split at h
    · simpa using h
    · split at h
      · rcases List.mem_cons.mp h with h | h
        · exact .inl h
        · exact .inr (List.mem_cons_of_mem _ h)
      · rcases List.mem_cons.mp h with h | h
        · exact .inr (h ▸ List.mem_cons_self)
        · exact (ih h).imp_right (List.mem_cons_of_mem _)

/-- A write to a general purpose register keeps the canonical form. -/
theorem Memory.wf_write {a : Nat} (v : Byte) {m : List Host.Cell} (hm : Memory.wf m = true)
    (hlo : 16 ≤ a) (hhi : a < 32) : Memory.wf (Memory.write a v m) = true := by
  simp only [Memory.wf, Bool.and_eq_true, List.all_eq_true, bne_iff_ne, ne_eq] at hm ⊢
  unfold Memory.write
  split
  · exact ⟨Memory.sorted_filter _ hm.1, fun c hc => hm.2 c (List.mem_of_mem_filter hc)⟩
  · rename_i hv
    refine ⟨Memory.sorted_insert v hm.1 hlo hhi, fun c hc => ?_⟩
    rcases Memory.mem_insert hc with rfl | hc
    · exact hv
    · exact hm.2 c hc

theorem Memory.sorted_ofValues (v : Nat → Byte) (count lo : Nat) :
    Memory.sorted lo (lo + count) (Memory.ofValues v count lo) = true := by
  induction count generalizing lo with
  | zero => rfl
  | succ count ih =>
    have h := ih (lo + 1)
    rw [show lo + 1 + count = lo + (count + 1) by omega] at h
    simp only [Memory.ofValues]
    split
    · exact Memory.sorted_mono (by omega) h
    · simp only [Memory.sorted, Bool.and_eq_true, decide_eq_true_eq]
      exact ⟨⟨le_refl _, by omega⟩, h⟩

theorem Memory.ne_zero_of_mem_ofValues {v : Nat → Byte} {count lo : Nat} {c : Host.Cell}
    (h : c ∈ Memory.ofValues v count lo) : c.2 ≠ 0#8 := by
  induction count generalizing lo with
  | zero => cases h
  | succ count ih =>
    simp only [Memory.ofValues] at h
    split at h
    · exact ih h
    · rename_i hv
      rcases List.mem_cons.mp h with rfl | h
      · exact hv
      · exact ih h

/-- A memory made from values is canonical. -/
theorem Memory.wf_ofValues (v : Nat → Byte) : Memory.wf (Memory.ofValues v 16 16) = true := by
  simp only [Memory.wf, Bool.and_eq_true, List.all_eq_true, bne_iff_ne, ne_eq]
  exact ⟨Memory.sorted_ofValues v 16 16, fun _ => Memory.ne_zero_of_mem_ofValues⟩

theorem Memory.lookup_eq_none_of_lt {lo hi a : Nat} {m : List (Nat × BitVec n)}
    (hm : Memory.sorted lo hi m = true) (ha : a < lo) : Memory.lookup a m = none := by
  induction m generalizing lo with
  | nil => rfl
  | cons c m ih =>
    simp only [Memory.sorted, Bool.and_eq_true, decide_eq_true_eq] at hm
    simp only [Memory.lookup]
    rw [if_neg (by omega)]
    exact ih hm.2 (by omega)

/-- A memory made from values reads them back at its addresses. -/
theorem Memory.read_ofValues (v : Nat → Byte) (count lo a : Nat) :
    Memory.read a (Memory.ofValues v count lo) =
      if lo ≤ a ∧ a < lo + count then v a else 0#8 := by
  unfold Memory.read
  induction count generalizing lo with
  | zero => simp [Memory.ofValues, Memory.lookup]
  | succ count ih =>
    have hnone := Memory.lookup_eq_none_of_lt (a := lo) (Memory.sorted_ofValues v count (lo + 1))
      (by omega)
    simp only [Memory.ofValues]
    by_cases ha : a = lo
    · subst a
      split
      · rename_i hv; simp [hnone, hv]
      · simp [Memory.lookup]
    · split
      · rw [ih]; split <;> split <;> first | rfl | omega
      · simp only [Memory.lookup, if_neg ha, ih]; split <;> split <;> first | rfl | omega

end Sys2Proof.Machine
end

