-- ==== Sys2Proof/Laws/State.lean ====
section
/-!
SUPPORT. One lemma per field per state update, so that no proof unfolds a record update.
-/

namespace Sys2Proof.Machine

/-! ### spend -/

@[simp] theorem spend_w (n : Nat) (s : State) : (spend n s).w = s.w := rfl
@[simp] theorem spend_pc (n : Nat) (s : State) : (spend n s).pc = s.pc := rfl
@[simp] theorem spend_stack (n : Nat) (s : State) : (spend n s).stack = s.stack := rfl
@[simp] theorem spend_tmr0 (n : Nat) (s : State) : (spend n s).tmr0 = s.tmr0 := rfl
@[simp] theorem spend_status (n : Nat) (s : State) : (spend n s).status = s.status := rfl
@[simp] theorem spend_fsr (n : Nat) (s : State) : (spend n s).fsr = s.fsr := rfl
@[simp] theorem spend_osccal (n : Nat) (s : State) : (spend n s).osccal = s.osccal := rfl
@[simp] theorem spend_gplat (n : Nat) (s : State) : (spend n s).gplat = s.gplat := rfl
@[simp] theorem spend_cmcon0 (n : Nat) (s : State) : (spend n s).cmcon0 = s.cmcon0 := rfl
@[simp] theorem spend_ram (n : Nat) (s : State) : (spend n s).ram = s.ram := rfl
@[simp] theorem spend_trisgpio (n : Nat) (s : State) : (spend n s).trisgpio = s.trisgpio := rfl
@[simp] theorem spend_option (n : Nat) (s : State) : (spend n s).option = s.option := rfl
@[simp] theorem spend_prescaler (n : Nat) (s : State) : (spend n s).prescaler = s.prescaler := rfl
@[simp] theorem spend_wdt (n : Nat) (s : State) : (spend n s).wdt = s.wdt := rfl
@[simp] theorem spend_sleeping (n : Nat) (s : State) : (spend n s).sleeping = s.sleeping := rfl
@[simp] theorem spend_prog (n : Nat) (s : State) : (spend n s).prog = s.prog := rfl
@[simp] theorem spend_params (n : Nat) (s : State) : (spend n s).params = s.params := rfl
@[simp] theorem spend_events (n : Nat) (s : State) : (spend n s).events = s.events := rfl
@[simp] theorem spend_now (n : Nat) (s : State) : (spend n s).now = s.now + n := rfl

/-! ### skip -/

@[simp] theorem skip_w (s : State) : (skip s).w = s.w := rfl
@[simp] theorem skip_pc (s : State) : (skip s).pc = s.pc + 1#9 := rfl
@[simp] theorem skip_stack (s : State) : (skip s).stack = s.stack := rfl
@[simp] theorem skip_tmr0 (s : State) : (skip s).tmr0 = s.tmr0 := rfl
@[simp] theorem skip_status (s : State) : (skip s).status = s.status := rfl
@[simp] theorem skip_fsr (s : State) : (skip s).fsr = s.fsr := rfl
@[simp] theorem skip_osccal (s : State) : (skip s).osccal = s.osccal := rfl
@[simp] theorem skip_gplat (s : State) : (skip s).gplat = s.gplat := rfl
@[simp] theorem skip_cmcon0 (s : State) : (skip s).cmcon0 = s.cmcon0 := rfl
@[simp] theorem skip_ram (s : State) : (skip s).ram = s.ram := rfl
@[simp] theorem skip_trisgpio (s : State) : (skip s).trisgpio = s.trisgpio := rfl
@[simp] theorem skip_option (s : State) : (skip s).option = s.option := rfl
@[simp] theorem skip_prescaler (s : State) : (skip s).prescaler = s.prescaler := rfl
@[simp] theorem skip_wdt (s : State) : (skip s).wdt = s.wdt := rfl
@[simp] theorem skip_sleeping (s : State) : (skip s).sleeping = s.sleeping := rfl
@[simp] theorem skip_prog (s : State) : (skip s).prog = s.prog := rfl
@[simp] theorem skip_params (s : State) : (skip s).params = s.params := rfl
@[simp] theorem skip_events (s : State) : (skip s).events = s.events := rfl
@[simp] theorem skip_now (s : State) : (skip s).now = s.now := rfl

/-! ### advancePc -/

@[simp] theorem advancePc_w (s : State) : (advancePc s).w = s.w := rfl
@[simp] theorem advancePc_pc (s : State) : (advancePc s).pc = s.pc + 1#9 := rfl
@[simp] theorem advancePc_stack (s : State) : (advancePc s).stack = s.stack := rfl
@[simp] theorem advancePc_tmr0 (s : State) : (advancePc s).tmr0 = s.tmr0 := rfl
@[simp] theorem advancePc_status (s : State) : (advancePc s).status = s.status := rfl
@[simp] theorem advancePc_fsr (s : State) : (advancePc s).fsr = s.fsr := rfl
@[simp] theorem advancePc_osccal (s : State) : (advancePc s).osccal = s.osccal := rfl
@[simp] theorem advancePc_gplat (s : State) : (advancePc s).gplat = s.gplat := rfl
@[simp] theorem advancePc_cmcon0 (s : State) : (advancePc s).cmcon0 = s.cmcon0 := rfl
@[simp] theorem advancePc_ram (s : State) : (advancePc s).ram = s.ram := rfl
@[simp] theorem advancePc_trisgpio (s : State) : (advancePc s).trisgpio = s.trisgpio := rfl
@[simp] theorem advancePc_option (s : State) : (advancePc s).option = s.option := rfl
@[simp] theorem advancePc_prescaler (s : State) : (advancePc s).prescaler = s.prescaler := rfl
@[simp] theorem advancePc_wdt (s : State) : (advancePc s).wdt = s.wdt := rfl
@[simp] theorem advancePc_sleeping (s : State) : (advancePc s).sleeping = s.sleeping := rfl
@[simp] theorem advancePc_prog (s : State) : (advancePc s).prog = s.prog := rfl
@[simp] theorem advancePc_params (s : State) : (advancePc s).params = s.params := rfl
@[simp] theorem advancePc_events (s : State) : (advancePc s).events = s.events := rfl
@[simp] theorem advancePc_now (s : State) : (advancePc s).now = s.now := rfl

/-! ### passBoundary -/

@[simp] theorem passBoundary_w (s : State) : (passBoundary s).w = s.w := rfl
@[simp] theorem passBoundary_pc (s : State) : (passBoundary s).pc = s.pc := rfl
@[simp] theorem passBoundary_stack (s : State) : (passBoundary s).stack = s.stack := rfl
@[simp] theorem passBoundary_tmr0 (s : State) : (passBoundary s).tmr0 = s.tmr0 := rfl
@[simp] theorem passBoundary_status (s : State) : (passBoundary s).status = s.status := rfl
@[simp] theorem passBoundary_fsr (s : State) : (passBoundary s).fsr = s.fsr := rfl
@[simp] theorem passBoundary_osccal (s : State) : (passBoundary s).osccal = s.osccal := rfl
@[simp] theorem passBoundary_gplat (s : State) : (passBoundary s).gplat = s.gplat := rfl
@[simp] theorem passBoundary_cmcon0 (s : State) : (passBoundary s).cmcon0 = s.cmcon0 := rfl
@[simp] theorem passBoundary_ram (s : State) : (passBoundary s).ram = s.ram := rfl
@[simp] theorem passBoundary_trisgpio (s : State) : (passBoundary s).trisgpio = s.trisgpio := rfl
@[simp] theorem passBoundary_option (s : State) : (passBoundary s).option = s.option := rfl
@[simp] theorem passBoundary_prescaler (s : State) : (passBoundary s).prescaler = s.prescaler := rfl
@[simp] theorem passBoundary_wdt (s : State) : (passBoundary s).wdt = s.wdt := rfl
@[simp] theorem passBoundary_sleeping (s : State) : (passBoundary s).sleeping = s.sleeping := rfl
@[simp] theorem passBoundary_prog (s : State) : (passBoundary s).prog = s.prog := rfl
@[simp] theorem passBoundary_params (s : State) : (passBoundary s).params = s.params := rfl
@[simp] theorem passBoundary_events (s : State) : (passBoundary s).events = s.events.tail := rfl
@[simp] theorem passBoundary_now (s : State) : (passBoundary s).now = s.now := rfl

/-! ### setFlags -/

@[simp] theorem setFlags_w (u : FlagUpdate) (s : State) : (setFlags u s).w = s.w := rfl
@[simp] theorem setFlags_pc (u : FlagUpdate) (s : State) : (setFlags u s).pc = s.pc := rfl
@[simp] theorem setFlags_stack (u : FlagUpdate) (s : State) : (setFlags u s).stack = s.stack := rfl
@[simp] theorem setFlags_tmr0 (u : FlagUpdate) (s : State) : (setFlags u s).tmr0 = s.tmr0 := rfl
@[simp] theorem setFlags_status (u : FlagUpdate) (s : State) : (setFlags u s).status = u.apply s.status := rfl
@[simp] theorem setFlags_fsr (u : FlagUpdate) (s : State) : (setFlags u s).fsr = s.fsr := rfl
@[simp] theorem setFlags_osccal (u : FlagUpdate) (s : State) : (setFlags u s).osccal = s.osccal := rfl
@[simp] theorem setFlags_gplat (u : FlagUpdate) (s : State) : (setFlags u s).gplat = s.gplat := rfl
@[simp] theorem setFlags_cmcon0 (u : FlagUpdate) (s : State) : (setFlags u s).cmcon0 = s.cmcon0 := rfl
@[simp] theorem setFlags_ram (u : FlagUpdate) (s : State) : (setFlags u s).ram = s.ram := rfl
@[simp] theorem setFlags_trisgpio (u : FlagUpdate) (s : State) : (setFlags u s).trisgpio = s.trisgpio := rfl
@[simp] theorem setFlags_option (u : FlagUpdate) (s : State) : (setFlags u s).option = s.option := rfl
@[simp] theorem setFlags_prescaler (u : FlagUpdate) (s : State) : (setFlags u s).prescaler = s.prescaler := rfl
@[simp] theorem setFlags_wdt (u : FlagUpdate) (s : State) : (setFlags u s).wdt = s.wdt := rfl
@[simp] theorem setFlags_sleeping (u : FlagUpdate) (s : State) : (setFlags u s).sleeping = s.sleeping := rfl
@[simp] theorem setFlags_prog (u : FlagUpdate) (s : State) : (setFlags u s).prog = s.prog := rfl
@[simp] theorem setFlags_params (u : FlagUpdate) (s : State) : (setFlags u s).params = s.params := rfl
@[simp] theorem setFlags_events (u : FlagUpdate) (s : State) : (setFlags u s).events = s.events := rfl
@[simp] theorem setFlags_now (u : FlagUpdate) (s : State) : (setFlags u s).now = s.now := rfl

/-! ### clearWatchdog -/

@[simp] theorem clearWatchdog_w (s : State) : (clearWatchdog s).w = s.w := rfl
@[simp] theorem clearWatchdog_pc (s : State) : (clearWatchdog s).pc = s.pc := rfl
@[simp] theorem clearWatchdog_stack (s : State) : (clearWatchdog s).stack = s.stack := rfl
@[simp] theorem clearWatchdog_tmr0 (s : State) : (clearWatchdog s).tmr0 = s.tmr0 := rfl
@[simp] theorem clearWatchdog_status (s : State) : (clearWatchdog s).status = s.status := rfl
@[simp] theorem clearWatchdog_fsr (s : State) : (clearWatchdog s).fsr = s.fsr := rfl
@[simp] theorem clearWatchdog_osccal (s : State) : (clearWatchdog s).osccal = s.osccal := rfl
@[simp] theorem clearWatchdog_gplat (s : State) : (clearWatchdog s).gplat = s.gplat := rfl
@[simp] theorem clearWatchdog_cmcon0 (s : State) : (clearWatchdog s).cmcon0 = s.cmcon0 := rfl
@[simp] theorem clearWatchdog_ram (s : State) : (clearWatchdog s).ram = s.ram := rfl
@[simp] theorem clearWatchdog_trisgpio (s : State) : (clearWatchdog s).trisgpio = s.trisgpio := rfl
@[simp] theorem clearWatchdog_option (s : State) : (clearWatchdog s).option = s.option := rfl
@[simp] theorem clearWatchdog_prescaler (s : State) : (clearWatchdog s).prescaler = if s.psa then 0#8 else s.prescaler := rfl
@[simp] theorem clearWatchdog_wdt (s : State) : (clearWatchdog s).wdt = 0 := rfl
@[simp] theorem clearWatchdog_sleeping (s : State) : (clearWatchdog s).sleeping = s.sleeping := rfl
@[simp] theorem clearWatchdog_prog (s : State) : (clearWatchdog s).prog = s.prog := rfl
@[simp] theorem clearWatchdog_params (s : State) : (clearWatchdog s).params = s.params := rfl
@[simp] theorem clearWatchdog_events (s : State) : (clearWatchdog s).events = s.events := rfl
@[simp] theorem clearWatchdog_now (s : State) : (clearWatchdog s).now = s.now := rfl

end Sys2Proof.Machine
end

