-- ==== Sys2Proof/Laws/Ops.lean ====
section
/-!
SUPPORT. What each shared operation does, once.
-/

namespace Sys2Proof.Machine

/-! ### Operand reads -/

/-- `0 || v` is `v` widened with a zero (R13). -/
theorem zero_append_eq_setWidth (v : Byte) : (0#1 ++ v : ProgAddr) = v.setWidth 9 := by
  revert v; decide +kernel

theorem readFile_fsr (s : State) : (readFile 4#5 s).toNat = 0xE0 + s.fsr.toNat := by
  have h : ∀ f : BitVec 5, (0b111#3 ++ f : Byte).toNat = 0xE0 + f.toNat := by decide +kernel
  exact h s.fsr

/-- FSR reads 111 in its top bits (R41). -/
theorem readFile_fsr_high (s : State) : (readFile 4#5 s).extractLsb' 5 3 = 0b111#3 := by
  have h : ∀ f : BitVec 5, (0b111#3 ++ f : Byte).extractLsb' 5 3 = 0b111#3 := by decide +kernel
  exact h s.fsr

/-- CMCON0 reads its stored bits below CMPOUT (R43). -/
theorem readFile_cmcon0_low (s : State) (h : s.params.hasComparator = true) :
    (readFile 7#5 s).extractLsb' 0 7 = s.cmcon0 := by
  have hb : ∀ (b : Bool) (x : BitVec 7), (BitVec.ofBool b ++ x : Byte).extractLsb' 0 7 = x := by
    decide +kernel
  have hr : readFile 7#5 s = BitVec.ofBool (Config.comparatorOutput s.now) ++ s.cmcon0 := by
    simp [readFile, locate, h]
  rw [hr]; exact hb _ _

/-- GPIO reads the pin levels, bit by bit, under four zeros (R42, R70). -/
theorem readFile_gpio_getLsbD (s : State) (i : Nat) :
    (readFile 6#5 s).getLsbD i = (decide (i < 4) && pinLevel s i) := by
  have h : ∀ (a b c d : Bool) (i : Fin 8),
      (0#4 ++ (BitVec.ofBool a ++ BitVec.ofBool b ++ BitVec.ofBool c ++ BitVec.ofBool d : BitVec 4)
        : Byte).getLsbD i =
        if i.val = 0 then d else if i.val = 1 then c else if i.val = 2 then b
        else if i.val = 3 then a else false := by decide +kernel
  by_cases hi : i < 8
  · have := h (pinLevel s 3) (pinLevel s 2) (pinLevel s 1) (pinLevel s 0) ⟨i, hi⟩
    refine Eq.trans this ?_
    match i, hi with
    | 0, _ | 1, _ | 2, _ | 3, _ | 4, _ | 5, _ | 6, _ | 7, _ => simp
  · rw [BitVec.getLsbD_of_ge _ _ (by omega)]
    simp; omega

theorem rotateLeft_toNat (v : Byte) (c : Bool) :
    (rotateLeft v c).toNat = (2 * v.toNat + c.toNat) % 256 := by
  revert v c; decide +kernel

theorem rotateRight_toNat (v : Byte) (c : Bool) :
    (rotateRight v c).toNat = v.toNat / 2 + 128 * c.toNat := by
  revert v c; decide +kernel

theorem swapNibbles_toNat (v : Byte) :
    (swapNibbles v).toNat = v.toNat % 16 * 16 + v.toNat / 16 := by
  revert v; decide +kernel

/-! ### Register file -/

/-- A property of every effective address holds if it holds of the eight special function registers
by number, of 08h to 0Fh and of the general purpose registers. -/
theorem fileAddr_cases {P : FileAddr → Prop} (h0 : P 0#5) (h1 : P 1#5) (h2 : P 2#5) (h3 : P 3#5)
    (h4 : P 4#5) (h5 : P 5#5) (h6 : P 6#5) (h7 : P 7#5)
    (hu : ∀ a : FileAddr, 8 ≤ a.toNat → a.toNat < 16 → P a)
    (hg : ∀ a : FileAddr, 16 ≤ a.toNat → P a) (a : FileAddr) : P a := by
  by_cases hlt : a.toNat < 8
  · have ha : a = BitVec.ofNat 5 a.toNat := by simp
    generalize a.toNat = n at ha hlt
    subst ha
    match n, hlt with
    | 0, _ => exact h0
    | 1, _ => exact h1
    | 2, _ => exact h2
    | 3, _ => exact h3
    | 4, _ => exact h4
    | 5, _ => exact h5
    | 6, _ => exact h6
    | 7, _ => exact h7
  · by_cases h16 : a.toNat < 16
    · exact hu a (by omega) h16
    · exact hg a (by omega)

theorem locate_unimplemented (p : Params) (a : FileAddr) (h : 8 ≤ a.toNat) (h' : a.toNat < 16) :
    locate p a = .unimplemented := by
  unfold locate
  split <;> first | omega | simp [h']

theorem locate_gpr (p : Params) (a : FileAddr) (h : 16 ≤ a.toNat) :
    locate p a = .gpr a.toNat := by
  unfold locate
  split <;> first | omega | simp [show ¬ a.toNat < 16 by omega]

theorem locate_eq_pcl (p : Params) (a : FileAddr) : locate p a = .pcl ↔ a = 2#5 := by
  refine fileAddr_cases (P := fun a => locate p a = .pcl ↔ a = 2#5) ?_ ?_ ?_ ?_ ?_ ?_ ?_ ?_ ?_ ?_ a
  all_goals first
    | (intro a h h'; rw [locate_unimplemented p a h h']; simp; rintro rfl; simp at h)
    | (intro a h; rw [locate_gpr p a h]; simp; rintro rfl; simp at h)
    | (simp [locate]; try split <;> simp)

theorem effAddr_zero {s : State} : effAddr 0#5 s = s.fsr := by simp [effAddr]

theorem effAddr_of_ne {f : FileAddr} {s : State} (h : f ≠ 0#5) : effAddr f s = f := by
  simp [effAddr, h]

@[simp] theorem writeFile_now (a : FileAddr) (v : Byte) (s : State) :
    (writeFile a v s).now = s.now := by
  unfold writeFile; split <;> rfl

/-- A write at an effective address leaves what R71 says, register by register and byte by byte. -/
theorem writeFile_fileWrite (a : FileAddr) (v : Byte) (s : State) :
    FileWrite s (writeFile a v s) a v := by
  have hx := zero_append_eq_setWidth v
  refine fileAddr_cases (P := fun a => FileWrite s (writeFile a v s) a v)
    ?_ ?_ ?_ ?_ ?_ ?_ ?_ ?_ ?_ ?_ a
  case refine_9 =>
    intro a h h'
    have hne : ∀ n, n < 8 → a ≠ BitVec.ofNat 5 n := by
      rintro n hn rfl; simp at h; omega
    have := hne 1; have := hne 2; have := hne 4; have := hne 5; have := hne 6; have := hne 7
    unfold writeFile
    rw [locate_unimplemented _ a h h']
    constructor <;> simp_all
  case refine_10 =>
    intro a h
    have hne : ∀ n, n < 8 → a ≠ BitVec.ofNat 5 n := by
      rintro n hn rfl; simp at h; omega
    have := hne 1; have := hne 2; have := hne 4; have := hne 5; have := hne 6; have := hne 7
    unfold writeFile
    rw [locate_gpr _ a h]
    constructor <;> simp_all
    intro n
    split <;> split <;> first | rfl | omega
  case refine_2 =>
    have hw : writeFile 1#5 v s =
        { s with tmr0 := v, prescaler := if s.psa then s.prescaler else 0#8 } := rfl
    rw [hw]
    constructor <;> try simp
    case prescaler => cases h : s.option[3] <;> simp [State.psa, h]
  case refine_8 =>
    cases hc : s.params.hasComparator
    · have hw : writeFile 7#5 v s = s := by simp [writeFile, locate, hc]
      rw [hw]
      constructor <;> simp [hc]
    · have hw : writeFile 7#5 v s = { s with cmcon0 := v.extractLsb' 0 7 } := by
        simp [writeFile, locate, hc]
      rw [hw]
      constructor <;> simp [hc, BitVec.setWidth_eq_extractLsb']
  all_goals
    simp only [writeFile, locate, BitVec.toNat_ofNat]
    constructor <;> simp [hx, BitVec.setWidth_eq_extractLsb']

/-- A write at an effective address keeps the canonical form of the data memory. -/
theorem writeFile_wf (a : FileAddr) (v : Byte) (s : State) (h : Memory.wf s.ram = true) :
    Memory.wf (writeFile a v s).ram = true := by
  refine fileAddr_cases (P := fun a => Memory.wf (writeFile a v s).ram = true)
    ?_ ?_ ?_ ?_ ?_ ?_ ?_ ?_ ?_ ?_ a
  case refine_9 =>
    intro a h8 h16
    simpa only [writeFile, locate_unimplemented _ a h8 h16] using h
  case refine_10 =>
    intro a h16
    simpa only [writeFile, locate_gpr _ a h16] using Memory.wf_write _ h h16 a.isLt
  all_goals
    unfold writeFile locate
    cases s.params.hasComparator <;> exact h

/-- STATUS after a write at an effective address (R71): the data bits when the address is 03h. -/
theorem writeFile_status (a : FileAddr) (v : Byte) (s : State) :
    (writeFile a v s).status = if a = 3#5 then statusWrite v s.status else s.status := by
  refine fileAddr_cases
    (P := fun a => (writeFile a v s).status = if a = 3#5 then statusWrite v s.status else s.status)
    ?_ ?_ ?_ ?_ ?_ ?_ ?_ ?_ ?_ ?_ a
  case refine_9 =>
    intro a h h'
    have : a ≠ 3#5 := by rintro rfl; simp at h
    simp [writeFile, locate_unimplemented _ a h h', this]
  case refine_10 =>
    intro a h
    have : a ≠ 3#5 := by rintro rfl; simp at h
    simp [writeFile, locate_gpr _ a h, this]
  all_goals
    unfold writeFile locate
    cases s.params.hasComparator <;> simp

theorem writesPcl_iff (d : Dest) (a : FileAddr) (s : State) :
    writesPcl d a s = true ↔ d = .f ∧ a = 2#5 := by
  simp [writesPcl, locate_eq_pcl]

theorem status_after_flags (s : State) (target : Option FileAddr) (r st : Byte) (u : FlagUpdate)
    (h : ∀ i, i < 8 → st.getLsbD i =
      if target = some 3#5 ∧ i ≠ 3 ∧ i ≠ 4 then r.getLsbD i else s.status.getLsbD i)
    (t : State) (ht : t.status = u.apply st) : StatusAfter s t target r u.bits := by
  intro i hi
  rw [ht, FlagUpdate.apply_getLsbD u st i hi]
  cases u.bits i with
  | none => simpa using h i hi
  | some b => simp

/-- Storing a result with its flags gives the result of R113 and R57. -/
theorem storeResult_byteResult (f : FileAddr) (d : Dest) (r : Byte) (u : FlagUpdate) (s : State) :
    ByteResult s (storeResult f d r u s) f d r u.bits := by
  cases d with
  | w =>
    refine ⟨?_, status_after_flags s none r s.status u (by simp) _ ?_⟩
    · simp [storeResult, writesPcl, writeDest, spend, setFlags]
    · simp [storeResult, writeDest]
  | f =>
    refine ⟨?_, status_after_flags s _ r (writeFile (effAddr f s) r s).status u ?_ _ ?_, ?_⟩
    · have h := writeFile_fileWrite (effAddr f s) r s
      constructor <;> simp only [storeResult, writeDest, spend, setFlags]
      all_goals first
        | exact h.tmr0 | exact h.prescaler | exact h.pc | exact h.fsr | exact h.osccal
        | exact h.gplat | exact h.cmcon0 | exact h.ram | exact h.w | exact h.stack
        | exact h.trisgpio | exact h.option | exact h.wdt | exact h.sleeping | exact h.prog
        | exact h.params | exact h.events
    · intro i hi
      rw [writeFile_status]
      by_cases ha : effAddr f s = 3#5
      · simp only [ha, statusWrite_getLsbD _ _ i hi, if_true, true_and]
        split <;> split <;> first | rfl | omega
      · simp [ha]
    · simp [storeResult, writeDest]
    · by_cases ha : effAddr f s = 2#5 <;>
        simp [storeResult, writeDest, writesPcl, locate_eq_pcl, ha]

/-- A result stored with no flag, but for the time. -/
theorem writeDest_byteResult (f : FileAddr) (d : Dest) (r : Byte) (s : State)
    (h : ¬ (d = .f ∧ effAddr f s = 2#5)) :
    ByteResult s (spend 1 (writeDest d (effAddr f s) r s)) f d r (fun _ => none) := by
  have hs := storeResult_byteResult f d r .nothing s
  have h1 : storeResult f d r .nothing s = spend 1 (writeDest d (effAddr f s) r s) := by
    have hp : writesPcl d (effAddr f s) s = false := by
      rw [Bool.eq_false_iff, ne_eq, writesPcl_iff]; exact h
    simp [storeResult, hp, setFlags]
  rw [h1] at hs
  have hb : FlagUpdate.nothing.bits = fun _ => none := by
    funext i; unfold FlagUpdate.bits FlagUpdate.nothing; split <;> rfl
  rwa [hb] at hs

/-- Storing a count: skip or not, but for the form that writes PCL. -/
theorem storeCount_spec (f : FileAddr) (d : Dest) (r : Byte) (s : State)
    (h : ¬ (d = .f ∧ effAddr f s = 2#5)) :
    ∃ u, ByteResult s u f d r (fun _ => none) ∧
      storeCount f d r s = if r = 0#8 then skipped u else u := by
  refine ⟨_, writeDest_byteResult f d r s h, ?_⟩
  have hp : writesPcl d (effAddr f s) s = false := by
    rw [Bool.eq_false_iff, ne_eq, writesPcl_iff]; exact h
  simp only [storeCount, hp, Bool.false_eq_true, ↓reduceIte]
  split <;> rfl

/-- Storing a count into PCL: nothing but pc and the time changes. -/
theorem storeCount_pcl (f : FileAddr) (r : Byte) (s : State) (h : effAddr f s = 2#5) :
    storeCount f .f r s =
      { s with pc := Config.pcAfterCountIntoPcl s.now, now := s.now + 2 } := by
  have hp : writesPcl .f (effAddr f s) s = true := (writesPcl_iff _ _ _).mpr ⟨rfl, h⟩
  simp [storeCount, hp, spend]

/-- A literal operation's result. -/
theorem storeW_wResult (r : Byte) (s : State) : WResult s (storeW r s) r (zeroFlag r).bits :=
  storeResult_byteResult 0#5 .w r (zeroFlag r) s

theorem skipWhen_eq (c : Bool) (s : State) :
    skipWhen c s =
      if c then { s with pc := s.pc + 1#9, now := s.now + 2 } else { s with now := s.now + 1 } := by
  unfold skipWhen; split <;> rfl

/-! ### Stack -/

/-- A push puts the value on top and drops the last entry. -/
theorem Stack.entries_push (v : ProgAddr) (k : Stack) :
    (k.push v).entries = (v :: k.entries).take k.entries.length := by
  simp [Stack.push, Stack.entries, List.dropLast_eq_take]

/-- A pop drops the top entry and repeats the last. -/
theorem Stack.entries_pop (k : Stack) :
    k.pop.entries = k.entries.tail ++ [k.bottom] := by
  obtain ⟨t, b⟩ := k
  cases b <;> rfl

theorem Stack.length_push (v : ProgAddr) (k : Stack) :
    (k.push v).entries.length = k.entries.length := by
  rw [Stack.entries_push]; simp

theorem Stack.length_pop (k : Stack) : k.pop.entries.length = k.entries.length := by
  rw [Stack.entries_pop]; simp [Stack.entries]

theorem Stack.length_ofEntries (depth : Nat) (e : Nat → ProgAddr) :
    (Stack.ofEntries depth e).entries.length = max 1 depth := by
  simp [Stack.ofEntries, Stack.entries]; omega

/-! ### Devices -/

/-- Timer0's run changes TMR0 and the prescaler at most. -/
theorem runTimer0_frame (n : Nat) (s : State) :
    ∃ x p, runTimer0 n s = { s with tmr0 := x, prescaler := p } := by
  unfold runTimer0 countTimer0
  split
  · split
    · exact ⟨_, s.prescaler, rfl⟩
    · exact ⟨_, _, rfl⟩
  · exact ⟨s.tmr0, s.prescaler, rfl⟩

/-- The watchdog's run changes its count and the prescaler at most. -/
theorem runWatchdog_frame (s : State) :
    ∃ c p, runWatchdog s = { s with wdt := c, prescaler := p } := by
  unfold runWatchdog countWatchdog
  split
  · split
    · exact ⟨_, _, rfl⟩
    · exact ⟨_, s.prescaler, rfl⟩
  · exact ⟨s.wdt, s.prescaler, rfl⟩

/-- The devices change TMR0, the prescaler and the watchdog count at most. -/
theorem runDevices_frame (n : Nat) (s : State) :
    ∃ x p c, runDevices n s = { s with tmr0 := x, prescaler := p, wdt := c } := by
  obtain ⟨x, p, h⟩ := runTimer0_frame n s
  obtain ⟨c, q, h'⟩ := runWatchdog_frame (runTimer0 n s)
  exact ⟨x, q, c, by rw [runDevices, h', h]⟩

/-! ### Resets -/

/-- A reset other than power-on leaves what R183 says. -/
theorem restart_restarted (st : Byte) (s : State) :
    Restarted s (restart st (passBoundary s)) ∧ (restart st (passBoundary s)).status = st := by
  refine ⟨⟨rfl, ?_, rfl⟩, rfl⟩
  simp [restart, Stack.length_ofEntries]

/-- A power-on reset leaves what R60 says. -/
theorem powerOn_poweredOn (p : Params) (prog : List (Nat × InstrWord))
    (ev : List (List ResetKind)) (t : Nat) (u : Unknowns) :
    PoweredOn (State.powerOn p prog ev t u) := by
  constructor
  case unimplemented =>
    intro a h h'
    simp [readFile, locate_unimplemented _ a h h']
  case fsrHigh => exact readFile_fsr_high _
  case cmcon0 => exact fun h => readFile_cmcon0_low _ h
  all_goals simp only [State.powerOn, BitVec.getLsbD_append] <;> rfl

/-- The step's test of a cause is the table of R160. -/
theorem resetEnabled_iff (k : ResetKind) (s : State) : resetEnabled k s = true ↔ k.Enabled s := by
  cases k <;> simp [resetEnabled, ResetKind.Enabled, State.gpwu, State.cwu, and_assoc]

/-- The step takes the resets of its boundary. -/
theorem step_of_resets {s : State} (h : resetsNow s ≠ []) :
    step s = .next (takeResets (resetsNow s) (passBoundary s)) := by
  unfold step
  split
  · contradiction
  · rename_i hk; rw [hk]

/-- Resets among which there is no power-on leave what R183 says. -/
theorem takeResets_restarted (ks : List ResetKind) (s : State) (h : .powerOn ∉ ks) :
    Restarted s (takeResets ks (passBoundary s)) ∧
      (takeResets ks (passBoundary s)).status = ks.foldl resetStatus s.status := by
  have hc : ks.contains .powerOn = false := by simpa using h
  simp only [takeResets, hc, Bool.false_eq_true, ↓reduceIte]
  exact restart_restarted _ s

/-- A power-on among the resets dominates. -/
theorem takeResets_powerOn (ks : List ResetKind) (s : State) (h : .powerOn ∈ ks) :
    takeResets ks s = State.powerOn s.params s.prog s.events (s.now + 1) (unknownsAt s.now) := by
  simp [takeResets, h]

/-- One reset's row of R189, bit by bit. -/
theorem resetStatus_getLsbD (st : Byte) (k : ResetKind) (i : Nat) (hi : i < 8)
    (hk : k ≠ .powerOn) :
    (resetStatus st k).getLsbD i =
      if i = 7 then decide (k = .pinChange) else if i = 6 then decide (k = .comparatorChange)
      else if i = 4 then st.getLsbD 4 && decide (k ≠ .watchdog) else st.getLsbD i := by
  cases k <;> simp only [resetStatus, putBit_getLsbD _ _ _ _ hi, putWakeFlags_getLsbD _ _ _ _ hi]
  · contradiction
  all_goals
    by_cases h7 : i = 7 <;> by_cases h6 : i = 6 <;> by_cases h4 : i = 4 <;> subst_vars <;>
      simp_all

/-! ### Reserved uses -/

theorem setsStatusBit_iff (b : Nat) (s t : State) :
    setsStatusBit b s t = true ↔ s.status.getLsbD b = false ∧ t.status.getLsbD b = true := by
  simp [setsStatusBit]

theorem countsIntoPcl_iff (i : Instr) (s : State) :
    countsIntoPcl i s = true ↔ i.counts = true ∧ i.target s = some 2#5 := by
  cases i <;> simp only [countsIntoPcl, Instr.counts, Bool.false_eq_true, false_and, true_and] <;>
    rename_i f d <;> cases d <;> simp [writesPcl_iff, Instr.target]

/-- Everything the step can refuse of an instruction that has an effect. -/
theorem reservedUse_eq (i : Instr) (s t : State) :
    reservedUse i s t =
      if i.counts = true ∧ i.target s = some 2#5 then some .countIntoPcl
      else if s.status.getLsbD 5 = false ∧ t.status.getLsbD 5 = true then
        some (.reservedStatusBit 5)
      else if s.params.strict = true ∧ s.params.hasComparator = false ∧
          s.status.getLsbD 6 = false ∧ t.status.getLsbD 6 = true then
        some (.reservedStatusBit 6)
      else none := by
  simp only [reservedUse, Bool.and_eq_true, countsIntoPcl_iff, setsStatusBit_iff,
    Bool.not_eq_true', and_assoc]

/-- What the step runs leaves the reserved STATUS bit clear. -/
theorem reservedUse_none_bit5 {i : Instr} {s t : State} (h : reservedUse i s t = none)
    (h5 : s.status.getLsbD 5 = false) : t.status.getLsbD 5 = false := by
  rw [reservedUse_eq] at h
  split at h
  · cases h
  · split at h
    · cases h
    · rename_i hn
      exact Bool.eq_false_iff.mpr fun h => hn ⟨h5, h⟩

/-! ### The step -/

/-- Everything a step can do. -/
theorem step_cases {s t : State} (h : step s = .next t) :
    (resetsNow s ≠ [] ∧ t = takeResets (resetsNow s) (passBoundary s)) ∨
      (resetsNow s = [] ∧ s.sleeping = true ∧ t = waitAsleep (passBoundary s)) ∨
      (resetsNow s = [] ∧ s.sleeping = false ∧
        ∃ word i u, fetch s = some word ∧ decode word = .ok i ∧
          exec i (advancePc (passBoundary s)) = .next u ∧
          reservedUse i (advancePc (passBoundary s)) u = none ∧
          t = runDevices (u.now - (s.now)) u) := by
  unfold step at h
  cases hr : resetsNow s with
  | cons k ks => exact .inl ⟨by simp, by simpa [hr] using h.symm⟩
  | nil =>
    rw [hr] at h
    cases hs : s.sleeping with
    | true => exact .inr (.inl ⟨rfl, rfl, by simpa [hs] using h.symm⟩)
    | false =>
      refine .inr (.inr ⟨rfl, rfl, ?_⟩)
      simp only [hs, Bool.false_eq_true, ↓reduceIte, stepInstr] at h
      split at h
      · cases h
      · rename_i word hw
        split at h
        · cases h
        · rename_i i hi
          unfold runInstr at h
          split at h
          · rename_i u hu
            split at h
            · cases h
            · rename_i hn
              exact ⟨word, i, u, hw, hi, hu, hn, by simpa using h.symm⟩
          · cases h
          · cases h

end Sys2Proof.Machine
end

