-- ==== Sys2Proof/Laws/Exec.lean ====
section
/-!
SUPPORT. What an instruction can do, said once: every meaning is one of a few shared operations, and
the spec's tables say which. A rule over all instructions follows from the cases of `ExecForm`.
-/

namespace Sys2Proof.Machine

/-- The shapes a next state of `exec i s` can have, with what the tables of Safety.lean say of
`i`. -/
inductive ExecForm (i : Instr) (s : State) : State → Prop where
  /-- A result and its flags are stored in W or in a file register. -/
  | store (f : FileAddr) (d : Dest) (r : Byte) (u : FlagUpdate)
      (target : i.target s = if d = .f then some (effAddr f s) else none)
      (noSkip : i.skips s = false) (noCount : i.counts = false)
      (writesW : i.writesW = false → d = .f)
      (flags : ∀ b, b ∉ i.affects → u.bits b = none)
      (cycles : i.cycles s = if d = .f ∧ effAddr f s = 2#5 then 2 else 1)
      (other : i ≠ .clrwdt ∧ i ≠ .sleep ∧ i ≠ .option) :
      ExecForm i s (storeResult f d r u s)
  /-- A count is stored, and the next instruction skipped when it is zero. -/
  | count (f : FileAddr) (d : Dest) (r : Byte)
      (target : i.target s = if d = .f then some (effAddr f s) else none)
      (counts : i.counts = true) (skips : i.skips s = true ↔ r = 0#8)
      (writesW : i.writesW = false → d = .f) (flags : i.affects = [])
      (cycles : i.cycles s =
        if i.skips s = true ∨ (d = .f ∧ effAddr f s = 2#5) then 2 else 1)
      (other : i ≠ .clrwdt ∧ i ≠ .sleep ∧ i ≠ .option) :
      ExecForm i s (storeCount f d r s)
  /-- A bit is tested. -/
  | test (c : Bool) (target : i.target s = none) (noCount : i.counts = false)
      (skips : i.skips s = c) (flags : i.affects = [])
      (cycles : i.cycles s = if c = true then 2 else 1) : ExecForm i s (skipWhen c s)
  | call (k : Byte) (eq : i = .call k) :
      ExecForm i s (spend 2 { s with stack := s.stack.push s.pc, pc := 0#1 ++ k })
  | goto (k : ProgAddr) (eq : i = .goto k) : ExecForm i s (spend 2 { s with pc := k })
  | retlw (k : Byte) (eq : i = .retlw k) :
      ExecForm i s (spend 2 { s with w := k, pc := s.stack.top, stack := s.stack.pop })
  | movlw (k : Byte) (eq : i = .movlw k) : ExecForm i s (spend 1 { s with w := k })
  | nop (eq : i = .nop) : ExecForm i s (spend 1 s)
  | tris (eq : i = .tris 6#3) :
      ExecForm i s (spend 1 { s with trisgpio := s.w.extractLsb' 0 4 })
  | option (p : Byte) (eq : i = .option) :
      ExecForm i s (spend 1 { s with option := s.w, prescaler := p })
  | clrwdt (eq : i = .clrwdt) :
      ExecForm i s (spend 1
        { clearWatchdog s with status := putTimeoutPowerDown true true s.status })
  | sleep (eq : i = .sleep) :
      ExecForm i s (spend 1
        { clearWatchdog s with
          status := putTimeoutPowerDown true false s.status, sleeping := true })

theorem nothing_bits (b : Nat) : FlagUpdate.nothing.bits b = none := by
  unfold FlagUpdate.bits FlagUpdate.nothing; split <;> rfl

theorem zeroFlag_bits {b : Nat} (r : Byte) (h : b ∉ [2]) : (zeroFlag r).bits b = none := by
  unfold FlagUpdate.bits zeroFlag; split <;> simp_all

theorem carryFlag_bits {b : Nat} (c : Bool) (h : b ∉ [0]) : (carryFlag c).bits b = none := by
  unfold FlagUpdate.bits carryFlag; split <;> simp_all

theorem addFlags_bits {b : Nat} (v w : Byte) (h : b ∉ [0, 1, 2]) :
    (addFlags v w).bits b = none := by
  unfold FlagUpdate.bits addFlags; split <;> simp_all

theorem subFlags_bits {b : Nat} (v w : Byte) (h : b ∉ [0, 1, 2]) :
    (subFlags v w).bits b = none := by
  unfold FlagUpdate.bits subFlags; split <;> simp_all

theorem eq_one_iff_dec_eq_zero (v : Byte) : v = 1#8 ↔ v - 1#8 = 0#8 := by
  revert v; decide +kernel

theorem eq_ff_iff_inc_eq_zero (v : Byte) : v = 0xFF#8 ↔ v + 1#8 = 0#8 := by
  revert v; decide +kernel

/-- Everything an instruction can do. -/
theorem exec_form {i : Instr} {s t : State} (h : exec i s = .next t) : ExecForm i s t := by
  cases i
  case tris f =>
    by_cases hf : f = 6#3
    · subst hf; cases h; exact .tris rfl
    · simp [exec, execTris, hf] at h
  case call k => cases h; exact .call k rfl
  case goto k => cases h; exact .goto k rfl
  case movlw k => cases h; exact .movlw k rfl
  case retlw k => cases h; exact .retlw k rfl
  case nop => cases h; exact .nop rfl
  case clrwdt => cases h; exact .clrwdt rfl
  case sleep => cases h; exact .sleep rfl
  case option => cases h; exact .option _ rfl
  case decfsz f d =>
    cases h
    exact .count f d _ (by cases d <;> rfl) rfl
      (by simp [Instr.skips]; exact eq_one_iff_dec_eq_zero _)
      (by cases d <;> simp [Instr.writesW]) rfl (by cases d <;> simp [Instr.cycles, Instr.target])
      (by simp)
  case incfsz f d =>
    cases h
    exact .count f d _ (by cases d <;> rfl) rfl
      (by simp [Instr.skips]; exact eq_ff_iff_inc_eq_zero _)
      (by cases d <;> simp [Instr.writesW]) rfl (by cases d <;> simp [Instr.cycles, Instr.target])
      (by simp)
  case btfsc f b =>
    cases h; exact .test _ rfl rfl rfl rfl (by simp [Instr.cycles, Instr.target, Instr.skips])
  case btfss f b =>
    cases h; exact .test _ rfl rfl rfl rfl (by simp [Instr.cycles, Instr.target, Instr.skips])
  case clrw | andlw | iorlw | xorlw =>
    cases h
    exact .store 0#5 .w _ _ rfl rfl rfl (by simp [Instr.writesW]) (fun _ hb => zeroFlag_bits _ hb)
      (by simp [Instr.cycles, Instr.target, Instr.skips]) (by simp)
  case clrf f =>
    cases h
    exact .store f .f _ _ rfl rfl rfl (by simp) (fun _ hb => zeroFlag_bits _ hb)
      (by simp [Instr.cycles, Instr.target, Instr.skips]) (by simp)
  case movwf f =>
    cases h
    exact .store f .f _ _ rfl rfl rfl (by simp) (fun b _ => nothing_bits b)
      (by simp [Instr.cycles, Instr.target, Instr.skips]) (by simp)
  case bcf f b | bsf f b =>
    cases h
    exact .store f .f _ _ rfl rfl rfl (by simp) (fun b _ => nothing_bits b)
      (by simp [Instr.cycles, Instr.target, Instr.skips]) (by simp)
  all_goals
    rename_i f d
    cases h
    refine .store f d _ _ (by cases d <;> rfl) rfl rfl (by cases d <;> simp [Instr.writesW])
      (fun b hb => ?_) (by cases d <;> simp [Instr.cycles, Instr.target, Instr.skips]) (by simp)
    first
      | exact zeroFlag_bits _ hb
      | exact carryFlag_bits _ hb
      | exact addFlags_bits _ _ hb
      | exact subFlags_bits _ _ hb
      | exact nothing_bits b

end Sys2Proof.Machine
end

