-- ==== Sys2Proof/Laws/PerInstr.lean ====
section
/-!
SUPPORT. Statements about every instruction as syntax, one lemma per constructor.
-/

namespace Sys2Proof.Laws

/-- The word of a well-formed instruction lies in its row of the opcode table: under the row's mask
it is the row's match (R100). -/
def RowMatch.Statement (i : Instr) : Prop :=
  i.wellFormed = true → encode i &&& i.row.2 = i.row.1

theorem RowMatch.addwf (f : FileAddr) (d : Dest) : RowMatch.Statement (.addwf f d) :=
  fun _ => by cases d <;> revert f <;> decide

theorem RowMatch.andwf (f : FileAddr) (d : Dest) : RowMatch.Statement (.andwf f d) :=
  fun _ => by cases d <;> revert f <;> decide

theorem RowMatch.clrf (f : FileAddr) : RowMatch.Statement (.clrf f) :=
  fun _ => by revert f; decide +kernel

theorem RowMatch.clrw : RowMatch.Statement (.clrw) :=
  fun _ => rfl

theorem RowMatch.comf (f : FileAddr) (d : Dest) : RowMatch.Statement (.comf f d) :=
  fun _ => by cases d <;> revert f <;> decide

theorem RowMatch.decf (f : FileAddr) (d : Dest) : RowMatch.Statement (.decf f d) :=
  fun _ => by cases d <;> revert f <;> decide

theorem RowMatch.decfsz (f : FileAddr) (d : Dest) : RowMatch.Statement (.decfsz f d) :=
  fun _ => by cases d <;> revert f <;> decide

theorem RowMatch.incf (f : FileAddr) (d : Dest) : RowMatch.Statement (.incf f d) :=
  fun _ => by cases d <;> revert f <;> decide

theorem RowMatch.incfsz (f : FileAddr) (d : Dest) : RowMatch.Statement (.incfsz f d) :=
  fun _ => by cases d <;> revert f <;> decide

theorem RowMatch.iorwf (f : FileAddr) (d : Dest) : RowMatch.Statement (.iorwf f d) :=
  fun _ => by cases d <;> revert f <;> decide

theorem RowMatch.movf (f : FileAddr) (d : Dest) : RowMatch.Statement (.movf f d) :=
  fun _ => by cases d <;> revert f <;> decide

theorem RowMatch.movwf (f : FileAddr) : RowMatch.Statement (.movwf f) :=
  fun _ => by revert f; decide +kernel

theorem RowMatch.nop : RowMatch.Statement (.nop) :=
  fun _ => rfl

theorem RowMatch.rlf (f : FileAddr) (d : Dest) : RowMatch.Statement (.rlf f d) :=
  fun _ => by cases d <;> revert f <;> decide

theorem RowMatch.rrf (f : FileAddr) (d : Dest) : RowMatch.Statement (.rrf f d) :=
  fun _ => by cases d <;> revert f <;> decide

theorem RowMatch.subwf (f : FileAddr) (d : Dest) : RowMatch.Statement (.subwf f d) :=
  fun _ => by cases d <;> revert f <;> decide

theorem RowMatch.swapf (f : FileAddr) (d : Dest) : RowMatch.Statement (.swapf f d) :=
  fun _ => by cases d <;> revert f <;> decide

theorem RowMatch.xorwf (f : FileAddr) (d : Dest) : RowMatch.Statement (.xorwf f d) :=
  fun _ => by cases d <;> revert f <;> decide

theorem RowMatch.bcf (f : FileAddr) (b : BitVec 3) : RowMatch.Statement (.bcf f b) :=
  fun _ => by revert f b; decide +kernel

theorem RowMatch.bsf (f : FileAddr) (b : BitVec 3) : RowMatch.Statement (.bsf f b) :=
  fun _ => by revert f b; decide +kernel

theorem RowMatch.btfsc (f : FileAddr) (b : BitVec 3) : RowMatch.Statement (.btfsc f b) :=
  fun _ => by revert f b; decide +kernel

theorem RowMatch.btfss (f : FileAddr) (b : BitVec 3) : RowMatch.Statement (.btfss f b) :=
  fun _ => by revert f b; decide +kernel

theorem RowMatch.andlw (k : Byte) : RowMatch.Statement (.andlw k) :=
  fun _ => by revert k; decide +kernel

theorem RowMatch.call (k : Byte) : RowMatch.Statement (.call k) :=
  fun _ => by revert k; decide +kernel

theorem RowMatch.clrwdt : RowMatch.Statement (.clrwdt) :=
  fun _ => rfl

theorem RowMatch.goto (k : ProgAddr) : RowMatch.Statement (.goto k) :=
  fun _ => by revert k; decide +kernel

theorem RowMatch.iorlw (k : Byte) : RowMatch.Statement (.iorlw k) :=
  fun _ => by revert k; decide +kernel

theorem RowMatch.movlw (k : Byte) : RowMatch.Statement (.movlw k) :=
  fun _ => by revert k; decide +kernel

theorem RowMatch.option : RowMatch.Statement (.option) :=
  fun _ => rfl

theorem RowMatch.retlw (k : Byte) : RowMatch.Statement (.retlw k) :=
  fun _ => by revert k; decide +kernel

theorem RowMatch.sleep : RowMatch.Statement (.sleep) :=
  fun _ => rfl

theorem RowMatch.tris (f : BitVec 3) : RowMatch.Statement (.tris f) := by
  unfold RowMatch.Statement; revert f; decide

theorem RowMatch.xorlw (k : Byte) : RowMatch.Statement (.xorlw k) :=
  fun _ => by revert k; decide +kernel

end Sys2Proof.Laws
end

