-- ==== Sys2Proof/Tests/Slice0.lean ====
section
/-!
SUPPORT. Tests on fixed values. The expected results are the lines of 95_test_vectors.md, named in
each comment (B, T and L numbers, sections 2.4 to 2.6, S numbers), and the witnesses that the
hypotheses of the obligations can be met.
-/

namespace Sys2Proof.Tests

open Machine

/-! ### Helpers -/

/-- The start state of 95_test_vectors.md: pc at 010h, STATUS 0001 1000. -/
def start : State :=
  { State.reset with pc := 0x010#9 }

/-- The same with 512 program words, so that bit 8 of pc is visible. -/
def wide : State :=
  { start with params := { start.params with progWords := 512 } }

/-- What one step that runs a word shows of the state it goes to. -/
def after {α : Type} (s : State) (word : Nat) (show_ : State → α) : Option α :=
  match step (s.withFetchWord 12 word) with
  | .next t => some (show_ t)
  | .fault _ => none
  | .refused _ => none

/-- The general purpose register 10h, STATUS, pc and the cycles spent. -/
def reg10 (t : State) : Byte × Byte × ProgAddr × Nat :=
  (Memory.read 16 t.ram, t.status, t.pc, t.now)

/-- W, STATUS, pc and the cycles spent. -/
def accu (t : State) : Byte × Byte × ProgAddr × Nat :=
  (t.w, t.status, t.pc, t.now)

/-- The start state with W and register 10h given. -/
def put (w v : Byte) : State :=
  { start with w := w, ram := Memory.write 16 v [] }

/-! ### Well-formedness -/

/-- R106: the one check; TRIS names port 6. -/
theorem test_wellFormed_tris :
    (Instr.tris 5#3).wellFormed = false ∧ (Instr.tris 7#3).wellFormed = false ∧
      (Instr.tris 6#3).wellFormed = true := by
  decide

/-! ### Decoding -/

/-- Section 2.4 and part 2: words of the byte-oriented family. -/
theorem test_decode_byte :
    decode 0b000111110000#12 = .ok (.addwf 0x10#5 .f) ∧
      decode 0b000101010000#12 = .ok (.andwf 0x10#5 .w) ∧
      decode 0b000001110000#12 = .ok (.clrf 0x10#5) ∧
      decode 0b000001000000#12 = .ok .clrw ∧
      decode 0b001001110000#12 = .ok (.comf 0x10#5 .f) ∧
      decode 0b000011111111#12 = .ok (.decf 0x1F#5 .f) ∧
      decode 0b001011110000#12 = .ok (.decfsz 0x10#5 .f) ∧
      decode 0b001010100100#12 = .ok (.incf 0x04#5 .f) ∧
      decode 0b001111111111#12 = .ok (.incfsz 0x1F#5 .f) := by
  decide

theorem test_decode_byte_rest :
    decode 0b000100010000#12 = .ok (.iorwf 0x10#5 .w) ∧
      decode 0b001000000000#12 = .ok (.movf 0x00#5 .w) ∧
      decode 0b000000111111#12 = .ok (.movwf 0x1F#5) ∧
      decode 0b000000000000#12 = .ok .nop ∧
      decode 0b001101110000#12 = .ok (.rlf 0x10#5 .f) ∧
      decode 0b001100010000#12 = .ok (.rrf 0x10#5 .w) ∧
      decode 0b000010000000#12 = .ok (.subwf 0x00#5 .w) ∧
      decode 0b001110110000#12 = .ok (.swapf 0x10#5 .f) ∧
      decode 0b000110110000#12 = .ok (.xorwf 0x10#5 .f) := by
  decide

/-- Words of the bit-oriented family. -/
theorem test_decode_bit :
    decode 0b010011110000#12 = .ok (.bcf 0x10#5 7#3) ∧
      decode 0b010100100110#12 = .ok (.bsf 0x06#5 1#3) ∧
      decode 0b011010000100#12 = .ok (.btfsc 0x04#5 4#3) ∧
      decode 0b011111100011#12 = .ok (.btfss 0x03#5 7#3) := by
  decide

/-- Words of the literal and control family. -/
theorem test_decode_literal :
    decode 0b111001011111#12 = .ok (.andlw 0x5F#8) ∧
      decode 0b100101000000#12 = .ok (.call 0x40#8) ∧
      decode 0b000000000100#12 = .ok .clrwdt ∧
      decode 0b101110100101#12 = .ok (.goto 0x1A5#9) ∧
      decode 0b110100110101#12 = .ok (.iorlw 0x35#8) ∧
      decode 0b110001011010#12 = .ok (.movlw 0x5A#8) ∧
      decode 0b000000000010#12 = .ok .option ∧
      decode 0b100001000010#12 = .ok (.retlw 0x42#8) ∧
      decode 0b000000000011#12 = .ok .sleep ∧
      decode 0b000000000110#12 = .ok (.tris 6#3) ∧
      decode 0b111110101111#12 = .ok (.xorlw 0xAF#8) := by
  decide

/-- Section 2.4: the edges of the unassigned words. -/
theorem test_decode_unassigned :
    decode 0x001#12 = .error .unassigned ∧ decode 0x005#12 = .error .unassigned ∧
      decode 0x007#12 = .error .unassigned ∧ decode 0x008#12 = .error .unassigned ∧
      decode 0x01F#12 = .error .unassigned ∧ decode 0x041#12 = .error .unassigned ∧
      decode 0x05F#12 = .error .unassigned := by
  decide

/-- The host's reading of a table row, with and without bits above the word. -/
theorem test_decodeTableWord :
    decodeTableWord 12 0x1F0 = some (.addwf 0x10#5 .f) ∧
      decodeTableWord 16 0xBA5 = some (.goto 0x1A5#9) ∧ decodeTableWord 16 0x1BA5 = none := by
  decide

/-! ### Byte-oriented operations -/

/-- B1. -/
theorem test_addwf_no_carry :
    after (put 0x17#8 0xC2#8) 0x1F0 reg10 = some (0xD9#8, 0x18#8, 0x011#9, 1) := by decide

/-- B7: PCL reads FFh, the sum carries out of both nibbles, bit 8 is forced to 0. -/
theorem test_addwf_pcl :
    after { wide with pc := 0x1FE#9, w := 0x03#8 } 0x1E2 accu
      = some (0x03#8, 0x1B#8, 0x002#9, 2) := by decide

/-- B9. -/
theorem test_andwf :
    after (put 0x17#8 0xC2#8) 0x150 accu = some (0x02#8, 0x18#8, 0x011#9, 1) := by decide

/-- B12: TO and PD are kept, Z is set by the flag logic. -/
theorem test_clrf_status :
    after { start with status := 0b11011011#8 } 0x063 accu
      = some (0x00#8, 0b00011100#8, 0x011#9, 1) := by decide

/-- B15. -/
theorem test_clrw :
    after { start with w := 0x5A#8 } 0x040 accu = some (0x00#8, 0x1C#8, 0x011#9, 1) := by decide

/-- B16. -/
theorem test_comf :
    after (put 0x00#8 0x13#8) 0x270 reg10 = some (0xEC#8, 0x18#8, 0x011#9, 1) := by decide

/-- B19: no borrow is recorded. -/
theorem test_decf_wraps :
    after { put 0x00#8 0x00#8 with status := 0x19#8 } 0x0F0 reg10
      = some (0xFF#8, 0x19#8, 0x011#9, 1) := by decide

/-- B21. -/
theorem test_decfsz_skips :
    after (put 0x00#8 0x01#8) 0x2F0 reg10 = some (0x00#8, 0x18#8, 0x012#9, 2) := by decide

/-- B22. -/
theorem test_decfsz_wraps :
    after (put 0x00#8 0x00#8) 0x2D0 accu = some (0xFF#8, 0x18#8, 0x011#9, 1) := by decide

/-- B26: the result is 00h, the register then reads E0h. -/
theorem test_incf_fsr :
    after { start with fsr := 0x1F#5 } 0x2A4 (fun t => (readFile 4#5 t, t.status))
      = some (0xE0#8, 0x1C#8) := by decide

/-- B28. -/
theorem test_incfsz_skips :
    after (put 0x00#8 0xFF#8) 0x3F0 reg10 = some (0x00#8, 0x18#8, 0x012#9, 2) := by decide

/-- B30. -/
theorem test_iorwf :
    after (put 0x91#8 0x13#8) 0x110 accu = some (0x93#8, 0x18#8, 0x011#9, 1) := by decide

/-- B37: through INDF. -/
theorem test_movf_indf :
    after { start with fsr := 0x12#5, ram := [(18, 0x99#8)] } 0x200 accu
      = some (0x99#8, 0x18#8, 0x011#9, 1) := by decide

/-- B35: the low byte of the address of the next instruction. -/
theorem test_movf_pcl :
    after { start with pc := 0x0FF#9 } 0x202 accu = some (0x00#8, 0x1C#8, 0x100#9, 1) := by decide

/-- R129's example: TO and PD are not written. -/
theorem test_movwf_status :
    after { start with w := 0xDF#8, status := 0x00#8 } 0x023 accu
      = some (0xDF#8, 0b11000111#8, 0x011#9, 1) := by decide

/-- B41: a model that adopts U4 refuses this line. -/
theorem test_movwf_status_reserved :
    (match step ({ start with w := 0xFF#8, status := 0x00#8 }.withFetchWord 12 0x023) with
      | .refused r => some r
      | _ => none) = some (.reservedStatusBit 5) := by decide

/-- R129, R28: after MOVWF PCL with W = 40h the next instruction reads 41h from PCL. -/
theorem test_read_after_movwf_pcl :
    after { start with pc := 0x150#9, w := 0x40#8 } 0x022
      (fun t => (t.pc, readFile 2#5 (advancePc t))) = some (0x040#9, 0x41#8) := by decide

/-- S6: the prescaler is cleared when it is Timer0's. -/
theorem test_movwf_tmr0 :
    after { start with w := 0x20#8, option := 0xF7#8, prescaler := 77#8 } 0x021
      (fun t => (t.tmr0, t.prescaler)) = some (0x20#8, 0#8) := by decide

/-- B45. -/
theorem test_nop :
    after start 0x000 accu = some (0x00#8, 0x18#8, 0x011#9, 1) := by decide

/-- B47. -/
theorem test_rlf :
    after { put 0x00#8 0x80#8 with status := 0x19#8 } 0x370 reg10
      = some (0x01#8, 0x19#8, 0x011#9, 1) := by decide

/-- B51: Z is not affected though the result is zero. -/
theorem test_rrf :
    after (put 0x55#8 0x01#8) 0x310 accu = some (0x00#8, 0x19#8, 0x011#9, 1) := by decide

/-- B54: a borrow clears C and DC. -/
theorem test_subwf_borrow :
    after (put 0x02#8 0x01#8) 0x0B0 reg10 = some (0xFF#8, 0x18#8, 0x011#9, 1) := by decide

/-- B55: no borrow, but one out of the low nibble. -/
theorem test_subwf_digit_borrow :
    after (put 0x01#8 0x10#8) 0x090 accu = some (0x0F#8, 0x19#8, 0x011#9, 1) := by decide

/-- B59. -/
theorem test_swapf :
    after (put 0x00#8 0xA5#8) 0x3B0 reg10 = some (0x5A#8, 0x18#8, 0x011#9, 1) := by decide

/-- B61. -/
theorem test_xorwf :
    after (put 0xB5#8 0xAF#8) 0x1B0 reg10 = some (0x1A#8, 0x18#8, 0x011#9, 1) := by decide

/-! ### Bit-oriented operations -/

/-- T1. -/
theorem test_bcf :
    after (put 0x00#8 0xC7#8) 0x4F0 reg10 = some (0x47#8, 0x18#8, 0x011#9, 1) := by decide

/-- T3: TO is not writable. -/
theorem test_bcf_timeout :
    after start 0x483 accu = some (0x00#8, 0x18#8, 0x011#9, 1) := by decide

/-- T10: a bit of PCL. -/
theorem test_bsf_pcl :
    after { wide with pc := 0x120#9 } 0x502 accu = some (0x00#8, 0x18#8, 0x021#9, 2) := by decide

/-- P5, line 006h: with TRISGPIO = 1000 and T0CS = 0, GP2 to GP0 read the latch. -/
theorem test_driven_pins :
    let s := { start with option := 0xDF#8, trisgpio := 0x8#4, gplat := 0x5#4 }
    pinLevel s 0 = true ∧ pinLevel s 1 = false ∧ pinLevel s 2 = true ∧
      gp2Overridden { s with osccal := 0xFF#8 } = true := by decide

/-- T12. -/
theorem test_btfsc_skips :
    after start 0x684 accu = some (0x00#8, 0x18#8, 0x012#9, 2) := by decide

/-- T13: bit 7 of FSR reads 1. -/
theorem test_btfsc_fsr_high :
    after start 0x6E4 accu = some (0x00#8, 0x18#8, 0x011#9, 1) := by decide

/-- T18: the skip wraps at 1FFh. -/
theorem test_btfss_wraps :
    after { wide with pc := 0x1FF#9, status := 0x19#8 } 0x703 accu
      = some (0x00#8, 0x19#8, 0x001#9, 2) := by decide

/-! ### Literal and control operations -/

/-- L1. -/
theorem test_andlw :
    after { start with w := 0xA3#8 } 0xE5F accu = some (0x03#8, 0x18#8, 0x011#9, 1) := by decide

/-- L5: the return address wraps, the oldest entry is lost. -/
theorem test_call :
    after { wide with pc := 0x1FF#9, stack := ⟨0x0AA#9, [0x0BB#9]⟩ } 0x9FF
      (fun t => (t.pc, t.stack.entries, t.now)) = some (0x0FF#9, [0x000#9, 0x0AA#9], 2) := by
  decide

/-- L7. -/
theorem test_clrwdt :
    after { start with status := 0b11000000#8, wdt := 5 } 0x004 (fun t => (t.status, t.wdt))
      = some (0b11011000#8, 0) := by decide

/-- L8. -/
theorem test_goto :
    after start 0xBA5 (fun t => (t.pc, t.now)) = some (0x1A5#9, 2) := by decide

/-- L10. -/
theorem test_iorlw :
    after { start with w := 0x9A#8 } 0xD35 accu = some (0xBF#8, 0x18#8, 0x011#9, 1) := by decide

/-- L12: no flag is affected. -/
theorem test_movlw :
    after { start with status := 0x1C#8 } 0xC5A accu
      = some (0x5A#8, 0x1C#8, 0x011#9, 1) := by decide

/-- L14. -/
theorem test_option :
    after { start with w := 0xD7#8 } 0x002 (fun t => (t.option, t.pc))
      = some (0b11010111#8, 0x011#9) := by decide

/-- L16: all nine bits come back, the last entry keeps its value. -/
theorem test_retlw :
    after { wide with stack := ⟨0x1F1#9, [0x0BB#9]⟩ } 0x800
      (fun t => (t.w, t.pc, t.stack.entries, t.now))
      = some (0x00#8, 0x1F1#9, [0x0BB#9, 0x0BB#9], 2) := by decide

/-- L18. -/
theorem test_sleep :
    after { start with status := 0b10011111#8, wdt := 5 } 0x003
      (fun t => (t.status, t.sleeping, t.wdt)) = some (0b10010111#8, true, 0) := by decide

/-- L20. -/
theorem test_tris :
    after { start with w := 0x0D#8 } 0x006 (fun t => t.trisgpio) = some 0b1101#4 := by decide

/-- L21. -/
theorem test_xorlw :
    after { start with w := 0xB5#8 } 0xFAF accu = some (0x1A#8, 0x18#8, 0x011#9, 1) := by decide

/-! ### Resets, Timer0 -/

/-- Section 2.5, step 3: the wake-up by pin change. -/
theorem test_wake_on_pin_change :
    (takeResets [.pinChange] { start with status := 0b10010010#8, sleeping := true }).status
      = 0b10010010#8 := by decide

/-- Section 2.5, steps 5 and 7: the watchdog asleep and awake. -/
theorem test_watchdog_reset :
    (takeResets [.watchdog] { start with status := 0b10010010#8 }).status = 0b00000010#8 ∧
      (takeResets [.watchdog] { start with status := 0b00011010#8 }).status = 0b00001010#8 := by
  decide

/-- Section 2.5, step 9: MCLR from Sleep keeps TO and PD. -/
theorem test_mclr_reset :
    (takeResets [.mclr] { start with status := 0b00010010#8 }).status = 0b00010010#8 := by decide

/-- R162, R189: a watchdog time-out and a pin change at one instant, in both orders. -/
theorem test_coinciding_resets :
    (takeResets [.watchdog, .pinChange] { start with status := 0b00010010#8 }).status
      = 0b10000010#8 ∧
      (takeResets [.pinChange, .watchdog] { start with status := 0b00010010#8 }).status
        = 0b00000010#8 := by
  decide

/-- R140: BSF STATUS, 5 is refused, directly and through INDF; BSF STATUS, 6 is not. -/
theorem test_bsf_status :
    after start 0x5A3 (fun t => t.status) = none ∧
      after { start with fsr := 3#5 } 0x5A0 (fun t => t.status) = none ∧
      after start 0x5C3 (fun t => t.status) = some 0x58#8 := by
  decide

/-- U6: DECFSZ PCL, 1 and INCFSZ through INDF into PCL are refused, DECFSZ PCL, 0 is not. -/
theorem test_count_into_pcl :
    after start 0x2E2 (fun t => t.pc) = none ∧
      after { start with fsr := 2#5 } 0x3E0 (fun t => t.pc) = none ∧
      after start 0x2C2 (fun t => t.pc) = some 0x011#9 := by
  decide

/-- Section 2.6: CLRF TMR0 with the prescaler at 1 : 2 counts its own cycle after the clear. -/
theorem test_timer0_sketch :
    after
      { start with
        params := { start.params with timer0Sketch := true }
        option := 0xD0#8
        tmr0 := 9#8
        prescaler := 7#8 } 0x061
      (fun t => (t.tmr0, t.prescaler)) = some (0#8, 1#8) := by decide

/-- S7: the rates at both ends of PS. -/
theorem test_prescaler_rates :
    timer0Rate { start with option := 0xF0#8 } = 2 ∧ timer0Rate start = 256 ∧
      watchdogRate { start with option := 0xF8#8 } = 1 ∧ watchdogRate start = 128 := by
  decide

/-- S9: MOVF STATUS, 0 as the first instruction after State.reset. -/
theorem test_first_instruction :
    after State.reset 0x203 (fun t => (t.w, t.pc)) = some (0x18#8, 0x000#9) := by decide

/-! ### Witnesses: the hypotheses of the obligations can be met -/

/-- A one-word device whose program is NOP. -/
def nopForever : State :=
  { start with params := { start.params with progWords := 1 }, prog := [(0, 0x000#12)] }

/-- The same, asleep, as SLEEP leaves it, with nothing able to wake it. -/
def asleep : State :=
  { nopForever with status := 0b00010000#8, sleeping := true }

/-- A state in which one cause of reset comes at the next boundary. -/
def facing (k : ResetKind) (s : State) : State :=
  { s with events := [[k]] }

/-- EncodeThenDecode, EveryInstructionCompletes: operands at the ends of their ranges. -/
theorem witness_wellFormed :
    (Instr.goto 0x1FF#9).wellFormed = true ∧ (Instr.addwf 0x1F#5 .f).wellFormed = true ∧
      (Instr.tris 6#3).wellFormed = true := by decide

/-- DecodeThenEncode. -/
theorem witness_decode :
    decode 0xFFF#12 = .ok (.xorlw 0xFF#8) ∧ decode 0x000#12 = .ok .nop := by decide

/-- UnassignedWordsAreRefused: the ends of both ranges, and a state about to run one of them. -/
theorem witness_unassigned :
    unassignedWord 0x001 ∧ unassignedWord 0x005 ∧ unassignedWord 0x007 ∧ unassignedWord 0x008 ∧
      unassignedWord 0x01F ∧ unassignedWord 0x041 ∧ unassignedWord 0x05F ∧
      ¬ unassignedWord 0x020 ∧ ¬ unassignedWord 0x040 ∧ ¬ unassignedWord 0x060 := by
  unfold unassignedWord; omega

theorem witness_unassigned_fetch :
    let s := start.withFetchWord 12 0x05F
    resetsNow s = [] ∧ s.sleeping = false ∧ fetch s = some 0x05F#12 := by decide

/-- StepRunsDecodedInstruction. -/
theorem witness_step :
    resetsNow nopForever = [] ∧ nopForever.sleeping = false ∧
      Memory.lookup (nopForever.pc.toNat % nopForever.params.progWords) nopForever.prog
        = some 0x000#12 ∧
      decode 0x000#12 = .ok .nop := by decide

/-- CoveredProgramStopsOnlyAtReservedUse: a program of NOP. -/
theorem witness_covered :
    nopForever.Covered ∧ nopForever.AvoidsReservedUses := by
  refine ⟨⟨by decide, fun a ha => ⟨0x000#12, .nop, ?_, by decide⟩⟩, ?_⟩
  · have h : a = 0 := Nat.lt_one_iff.mp ha
    subst h; rfl
  · intro a word i u v hw hd hv
    have hz : word = 0x000#12 := by
      simp only [nopForever, Memory.lookup] at hw
      split at hw
      · exact (Option.some.inj hw).symm
      · cases hw
    subst hz
    have hi : i = .nop := (Except.ok.inj hd).symm
    subst hi
    obtain rfl : _ = v := Host.Outcome.next.inj hv
    exact ⟨fun h => Bool.false_ne_true h.1, id, fun _ _ => id⟩

/-- ProgramMemoryIsFixed, StepKeepsInvariant, OnlySleepStopsTheCore: a step of each kind, from a
state with the invariant. -/
theorem witness_steps :
    nopForever.Inv ∧ (∃ t, step nopForever = .next t) ∧ asleep.Inv ∧ (∃ t, step asleep = .next t) ∧
      (facing .powerOn asleep).Inv ∧ ∃ t, step (facing .powerOn asleep) = .next t := by
  refine ⟨?_, ⟨_, rfl⟩, ?_, ⟨_, rfl⟩, ?_, ⟨_, rfl⟩⟩ <;> constructor <;> decide

/-- CountAndSkipIfZero: both destinations, and the register next to PCL. -/
theorem witness_count :
    effAddr 3#5 start ≠ 2#5 ∧ effAddr 1#5 start ≠ 2#5 ∧
      (Dest.w = .f → effAddr 2#5 start ≠ 2#5) := by decide

/-- CountIntoPclIsRefused: PCL as the destination, directly and through INDF, and PCL as the operand
alone. -/
theorem witness_count_pcl :
    let s := { nopForever with prog := [(0, 0b001011#6 ++ Dest.f.bit ++ 2#5)] }
    let i := { nopForever with fsr := 2#5, prog := [(0, 0b001111#6 ++ Dest.f.bit ++ 0#5)] }
    let w := { nopForever with prog := [(0, 0b001011#6 ++ Dest.w.bit ++ 2#5)] }
    resetsNow s = [] ∧ s.sleeping = false ∧
      fetch s = some (0b001011#6 ++ Dest.f.bit ++ 2#5) ∧ effAddr 2#5 s = 2#5 ∧
      resetsNow i = [] ∧ i.sleeping = false ∧
      fetch i = some (0b001111#6 ++ Dest.f.bit ++ 0#5) ∧ effAddr 0#5 i = 2#5 ∧
      resetsNow w = [] ∧ w.sleeping = false ∧
      fetch w = some (0b001011#6 ++ Dest.w.bit ++ 2#5) ∧ Dest.w ≠ .f := by decide

/-- CallPushesReturnAddress, RetlwReturnsToTopOfStack, NestedCallsReturnInOrder: a stack of two
entries, with as many calls as it holds and with one more. -/
theorem witness_stack :
    0 + 1 < start.stack.entries.length ∧
      [1#9, 2#9].length ≤ start.stack.entries.length ∧
      start.stack.entries.length ≤ [1#9, 2#9].length ∧
      start.stack.entries.length ≤ [1#9, 2#9, 3#9].length := by decide

/-- TrisLoadsPortDirection: the ports next to 6. -/
theorem witness_tris : (5#3 : BitVec 3) ≠ 6#3 ∧ (7#3 : BitVec 3) ≠ 6#3 := by decide

/-- OptionLoadsControlRegister: with and without a change of PSA or PS. -/
theorem witness_option :
    (∀ i, i < 4 → start.w.getLsbD i = false ∧ start.option.getLsbD i = true) ∧
      ∀ i, i < 4 → ({ start with w := 0x0F#8 } : State).w.getLsbD i = start.option.getLsbD i := by
  decide

/-- OnlyListedFlagsAreAffected: C of MOVWF STATUS is not a flag but is written; TO of it is not
written; C of INCF 10h is neither. -/
theorem witness_flags :
    (∃ t, exec (.incf 0x10#5 .f) start = .next t) ∧ 0 ∉ (Instr.incf 0x10#5 .f).affects ∧
      (Instr.incf 0x10#5 .f).target start ≠ some 3#5 ∧
      (∃ t, exec (.movwf 3#5) start = .next t) ∧ 4 ∉ (Instr.movwf 3#5).affects ∧
      (Instr.movwf 3#5).target start = some 3#5 := by
  refine ⟨⟨_, rfl⟩, by decide, by decide, ⟨_, rfl⟩, by decide, by decide⟩

/-- RegistersHaveTheirWriters, OnlyTheDestinationFileChanges, PrescalerAndWatchdogClears,
WaysPcChanges, CycleCounts: a store to TMR0 and a store to PCL. -/
theorem witness_exec :
    (∃ t, exec (.movwf 1#5) start = .next t) ∧ (Instr.movwf 1#5).target start = some 1#5 ∧
      (Instr.movwf 1#5).writesW = false ∧
      (∃ t, exec (.movwf 2#5) start = .next t) ∧ (Instr.movwf 2#5).target start = some 2#5 := by
  refine ⟨⟨_, rfl⟩, by decide, by decide, ⟨_, rfl⟩, by decide⟩

/-- IndirectActsOnWhatFsrNames: the ends of what FSR can name. -/
theorem witness_indirect :
    ({ start with fsr := 1#5 } : State).fsr ≠ 0#5 ∧ ({ start with fsr := 31#5 } : State).fsr ≠ 0#5
      ∧ start.fsr = 0#5 := by decide

/-- ReadBackAfterMovwf: each effective address or end of a range, directly or through INDF, with a
driven pin and an undriven one. -/
theorem witness_readback :
    effAddr 0#5 start = 0#5 ∧ (∀ f : FileAddr, f ≠ 0#5 → effAddr f start = f) ∧
      effAddr 0#5 { start with fsr := 31#5 } = 31#5 ∧
      (let s := { start with trisgpio := 0xA#4, option := 0xDF#8, osccal := 0#8 };
        s.trisgpio.getLsbD 0 = false ∧ s.trisgpio.getLsbD 1 = true ∧ s.trisgpio.getLsbD 2 = false ∧
          s.option.getLsbD 5 = false ∧ s.osccal.getLsbD 0 = false ∧
          s.params.hasComparator = true ∧ s.cmcon0.getLsbD 6 = true) ∧
      ({ start with params := { start.params with hasComparator := false } } : State).params.hasComparator
        = false := by
  refine ⟨by decide, fun f hf => if_neg hf, by decide, by decide, by decide⟩

/-- FileReadMap: the first and last address of each range, and both devices. -/
theorem witness_addresses :
    8 ≤ (8#5 : FileAddr).toNat ∧ (15#5 : FileAddr).toNat < 16 ∧ 16 ≤ (16#5 : FileAddr).toNat ∧
      16 ≤ (31#5 : FileAddr).toNat ∧ start.params.hasComparator = true ∧
      ({ start with params := { start.params with hasComparator := false } } : State).params.hasComparator
        = false := by decide

/-- DrivenPinsReadTheLatch: GP0 to GP2 driven by the port. -/
theorem witness_driven :
    let s := { start with trisgpio := 0x8#4, option := 0xDF#8, osccal := 0x00#8 }
    s.trisgpio.getLsbD 0 = false ∧ s.trisgpio.getLsbD 1 = false ∧ s.trisgpio.getLsbD 2 = false ∧
      s.option.getLsbD 5 = false ∧ s.osccal.getLsbD 0 = false ∧ s.cmcon0.getLsbD 6 = true := by
  decide

/-- EqualReadsMeanEqualMemories. -/
theorem witness_memories :
    Memory.wf [(16, 1#8), (31, 2#8)] = true ∧ Memory.wf [] = true ∧ Memory.wf [(16, 0#8)] = false := by
  decide

/-- Timer0CountsCyclesUnderSketch: NOP with the instruction clock and PSA = 1. -/
theorem witness_timer0 :
    let s := { nopForever with
      params := { nopForever.params with timer0Sketch := true }, option := 0xDF#8 }
    s.params.timer0Sketch = true ∧ s.option.getLsbD 5 = false ∧ s.option.getLsbD 3 = true ∧
      resetsNow s = [] ∧ s.sleeping = false ∧ fetch s = some 0x000#12 ∧
      decode 0x000#12 = .ok .nop ∧ s.cmcon0.getLsbD 4 = true ∧
      Instr.nop.target (advancePc (passBoundary s)) = none ∧ ∃ t, step s = .next t := by
  refine ⟨by decide, by decide, by decide, by decide, by decide, by decide, by decide, by decide,
    by decide, ⟨_, rfl⟩⟩

/-- PowerOnResetValues, MclrAndWatchdogResets, WakeUpResets: each kind, enabled. -/
theorem witness_resets :
    let armed := { asleep with
      params := { asleep.params with wdte := true, mclre := true }
      option := 0x7F#8
      cmcon0 := 0x7E#7 }
    resetsNow (facing .powerOn armed) = [.powerOn] ∧ resetsNow (facing .mclr armed) = [.mclr] ∧
      resetsNow (facing .watchdog armed) = [.watchdog] ∧
      resetsNow (facing .pinChange armed) = [.pinChange] ∧
      resetsNow (facing .comparatorChange armed) = [.comparatorChange] := by decide

/-- DisabledResetsDoNothing: each kind, for each reason it is not enabled. -/
theorem witness_disabled :
    (facing .mclr start).params.mclre = false ∧ (facing .watchdog start).params.wdte = false ∧
      (facing .pinChange start).sleeping = false ∧
      (facing .pinChange asleep).option.getLsbD 7 = true ∧
      (facing .comparatorChange start).sleeping = false ∧
      (facing .comparatorChange asleep).cmcon0.getLsbD 0 = true := by decide

/-- SleepingCoreExecutesNothing, SleepsForeverWithoutWakeUp. -/
theorem witness_asleep :
    asleep.sleeping = true ∧ resetsNow asleep = [] ∧ asleep.NoWakeUp := by
  unfold State.NoWakeUp; decide

/-- OnlySleepStopsTheCore: an awake core that runs SLEEP. -/
theorem witness_sleep :
    after { nopForever with prog := [(0, 0x003#12)] } 0x003 (fun t => t.sleeping) = some true := by
  decide

/-- DrivenPinsReadTheLatch: each pin left to the outside, GP2 by each override, with the pull-ups on
and off. -/
theorem witness_undriven :
    start.trisgpio.getLsbD 0 = true ∧ start.trisgpio.getLsbD 1 = true ∧
      start.option.getLsbD 5 = true ∧ start.option.getLsbD 6 = true ∧
      ({ start with osccal := 0xFF#8 } : State).osccal.getLsbD 0 = true ∧
      start.params.hasComparator = true ∧
      ({ start with cmcon0 := 0x3F#7 } : State).cmcon0.getLsbD 6 = false ∧
      ({ start with option := 0xBF#8 } : State).option.getLsbD 6 = false := by decide

/-- FileReadMap: TMR0 under the sketch with the instruction clock, and with the comparator's. -/
theorem witness_tmr0_read :
    let s := { start with params := { start.params with timer0Sketch := true }, option := 0xDF#8 }
    s.params.timer0Sketch = true ∧ s.option.getLsbD 5 = false ∧ s.cmcon0.getLsbD 4 = true ∧
      ({ s with cmcon0 := 0x6F#7 } : State).cmcon0.getLsbD 4 = false := by decide

/-- Timer0CountsCyclesUnderSketch: PSA = 0, an outside clock, and the comparator's. -/
theorem witness_timer0_clocks :
    let s := { nopForever with params := { nopForever.params with timer0Sketch := true } }
    (∃ u, exec .nop (advancePc (passBoundary { s with option := 0xD0#8 })) = .next u ∧
        u.option.getLsbD 5 = false ∧ u.option.getLsbD 3 = false ∧ u.cmcon0.getLsbD 4 = true) ∧
      (∃ t, step { s with option := 0xD0#8 } = .next t) ∧
      (∃ u, exec .nop (advancePc (passBoundary s)) = .next u ∧ u.option.getLsbD 5 = true) ∧
      (∃ t, step s = .next t) ∧
      ∃ u, exec .nop (advancePc (passBoundary { s with cmcon0 := 0x6F#7 })) = .next u ∧
        u.params.hasComparator = true ∧ u.cmcon0.getLsbD 4 = false := by
  refine ⟨⟨_, rfl, by decide, by decide, by decide⟩, ⟨_, rfl⟩, ⟨_, rfl, by decide⟩, ⟨_, rfl⟩,
    ⟨_, rfl, by decide, by decide⟩⟩

/-- CoincidingResetsAreAllApplied, PowerOnResetValues: two causes at one boundary. -/
theorem witness_coinciding :
    let s := { asleep with
      params := { asleep.params with wdte := true }
      option := 0x7F#8
      events := [[.watchdog, .pinChange]] }
    ResetKind.powerOn ∉ [ResetKind.watchdog, .pinChange] ∧
      ResetKind.Enabled .watchdog s ∧ ResetKind.Enabled .pinChange s ∧
      resetsNow s = [.watchdog, .pinChange] ∧
      ResetKind.powerOn ∈ [ResetKind.mclr, .powerOn] := by
  refine ⟨by decide, rfl, ⟨rfl, by decide⟩, by decide, by decide⟩

/-- ReservedUsesAreRefused: each refusal and a NOP. -/
theorem witness_reserved :
    let p := { nopForever.params with strict := true }
    let s := { nopForever with params := p, w := 0x60#8 }
    let f200 := { s with params := { p with hasComparator := false }, w := 0x40#8 }
    (∃ t, exec (.decfsz 2#5 .f) (advancePc (passBoundary s)) = .next t) ∧
      (Instr.decfsz 2#5 .f).target (advancePc (passBoundary s)) = some 2#5 ∧
      (∃ t, exec (.movwf 3#5) (advancePc (passBoundary s)) = .next t ∧
        s.status.getLsbD 5 = false ∧ t.status.getLsbD 5 = true) ∧
      (∃ t, exec (.movwf 3#5) (advancePc (passBoundary f200)) = .next t ∧
        f200.status.getLsbD 6 = false ∧ t.status.getLsbD 6 = true ∧ t.status.getLsbD 5 = false) ∧
      (∃ t, step s = .next t) ∧ resetsNow nopForever = [] ∧ nopForever.sleeping = false ∧
      fetch { nopForever with prog := [(0, 0x5A3#12)] } = some 0b010110100011#12 ∧
      fetch { nopForever with prog := [(0, 0x2E2#12)] } = some 0b001011100010#12 ∧
      fetch { nopForever with prog := [(0, 0x3E2#12)] } = some 0b001111100010#12 := by
  refine ⟨⟨_, rfl⟩, by decide, ⟨_, rfl, by decide, by decide⟩,
    ⟨_, rfl, by decide, by decide, by decide⟩, ⟨_, rfl⟩, by decide, rfl, by decide, by decide, by decide⟩

end Sys2Proof.Tests
end

section
/-!
PROOFS. Indirect addressing (spec 20_memory.md R69, R72, R73): a file operand reaches an instruction's
effect through its effective address alone.
-/

namespace Sys2Proof.Machine

section EffectiveAddress

variable {f g : FileAddr} {d : Dest} {s : State}

/-- INDF and the register FSR names have the same effective address, when FSR is not zero (R69). -/
theorem effAddr_indf_eq_effAddr_fsr (h : s.fsr ≠ 0#5) : effAddr 0#5 s = effAddr s.fsr s := by
  rw [effAddr_zero, effAddr_of_ne h]

theorem readOperand_congr (h : effAddr f s = effAddr g s) : readOperand f s = readOperand g s := by
  rw [readOperand, readOperand, h]

theorem storeResult_congr (h : effAddr f s = effAddr g s) (r : Byte) (u : FlagUpdate) :
    storeResult f d r u s = storeResult g d r u s := by
  rw [storeResult, storeResult, h]

theorem storeCount_congr (h : effAddr f s = effAddr g s) (r : Byte) :
    storeCount f d r s = storeCount g d r s := by
  rw [storeCount, storeCount, h]

end EffectiveAddress

/-! ### FSR as a destination -/

section Fsr

variable {i : Instr} {f a : FileAddr} {d : Dest} {s t : State}

/-- An instruction that stores at `f`, but not in FSR, has W or another register as its destination. -/
theorem not_fsr_of_target_ne (target : i.target s = if d = .f then some (effAddr f s) else none)
    (h : i.target s ≠ some 4#5) : ¬ (d = .f ∧ effAddr f s = 4#5) := by
  rintro ⟨rfl, ha⟩
  exact h (by rw [target, if_pos rfl, ha])

theorem writeDest_fsr (h : ¬ (d = .f ∧ a = 4#5)) (r : Byte) : (writeDest d a r s).fsr = s.fsr := by
  cases d with
  | w => rfl
  | f =>
    have ha : a ≠ 4#5 := fun ha => h ⟨rfl, ha⟩
    exact (writeFile_fileWrite a r s).fsr.trans (if_neg ha)

theorem storeResult_fsr (h : ¬ (d = .f ∧ effAddr f s = 4#5)) (r : Byte) (u : FlagUpdate) :
    (storeResult f d r u s).fsr = s.fsr := by
  simp only [storeResult, spend_fsr, setFlags_fsr, writeDest_fsr h]

theorem storeCount_fsr (h : ¬ (d = .f ∧ effAddr f s = 4#5)) (r : Byte) :
    (storeCount f d r s).fsr = s.fsr := by
  unfold storeCount
  split
  · rfl
  · split <;> simp only [spend_fsr, skip_fsr, writeDest_fsr h]

theorem skipWhen_fsr (c : Bool) : (skipWhen c s).fsr = s.fsr := by
  cases c <;> rfl

/-- Only an instruction whose destination FSR is changes FSR. -/
theorem exec_fsr_of_target_ne (hexec : exec i s = .next t) (h : i.target s ≠ some 4#5) :
    t.fsr = s.fsr := by
  cases exec_form hexec with
  | store f d r u target => exact storeResult_fsr (not_fsr_of_target_ne target h) r u
  | count f d r target => exact storeCount_fsr (not_fsr_of_target_ne target h) r
  | test c => exact skipWhen_fsr c
  | call | goto | retlw | movlw | nop | tris | option | clrwdt | sleep => rfl

end Fsr

/-- Settles O42: each file instruction reads and stores at its effective address, which INDF shares
with the register FSR names; the last part is `exec_fsr_of_target_ne`. -/
theorem indirectActsOnWhatFsrNames : Obligations.IndirectActsOnWhatFsrNames := by
  intro s d b hfsr
  have same := effAddr_indf_eq_effAddr_fsr hfsr
  have read := readOperand_congr same
  have store (d : Dest) := storeResult_congr (d := d) same
  have count := storeCount_congr (d := d) same
  refine ⟨?addwf, ?andwf, ?clrf, ?comf, ?decf, ?decfsz, ?incf, ?incfsz, ?iorwf, ?movf, ?movwf, ?rlf,
    ?rrf, ?subwf, ?swapf, ?xorwf, ?bcf, ?bsf, ?btfsc, ?btfss, fun _ _ => exec_fsr_of_target_ne⟩
  case decfsz | incfsz => simp only [exec, execDecfsz, execIncfsz, read, count]
  case btfsc | btfss => simp only [exec, execBtfsc, execBtfss, read]
  case clrf | movwf => simp only [exec, execClrf, execMovwf, store]
  case bcf | bsf => simp only [exec, execBcf, execBsf, read, store]
  case addwf | subwf => simp only [exec, execAddwf, execSubwf, read, store]
  case andwf | iorwf | xorwf => simp only [exec, execAndwf, execIorwf, execXorwf, read, store]
  case comf | movf | swapf => simp only [exec, execComf, execMovf, execSwapf, read, store]
  case decf | incf => simp only [exec, execDecf, execIncf, read, store]
  case rlf | rrf => simp only [exec, execRlf, execRrf, read, store]

end Sys2Proof.Machine
end

section
/-!
PROOFS. The bit tests (spec 41_bit_oriented.md R141, R142): how a word of the BIT format decodes, and
the skip a tested bit decides.
-/

namespace Sys2Proof

/-! ### The fields of a word of the BIT format (R97) -/

section BitFormat

variable (op : BitVec 4) (b : BitVec 3) (f : FileAddr)

theorem bitFormat_opcode : (op ++ b ++ f : InstrWord).extractLsb' 8 4 = op := by
  rw [BitVec.append_assoc, BitVec.cast_eq]
  exact BitVec.extractLsb'_append_eq_left

theorem bitFormat_bit : (op ++ b ++ f : InstrWord).extractLsb' 5 3 = b := by
  rw [BitVec.extractLsb'_append_eq_of_le (by decide)]
  exact BitVec.extractLsb'_append_eq_right

theorem bitFormat_file : (op ++ b ++ f : InstrWord).extractLsb' 0 5 = f :=
  BitVec.extractLsb'_append_eq_right

/-- Opcode 6 of the BIT format is BTFSC, and opcode 7 BTFSS (R99, R100). -/
theorem decode_btfsc : decode (0b0110#4 ++ b ++ f) = .ok (.btfsc f b) := by
  simp only [decode, bitFormat_opcode, bitFormat_bit, bitFormat_file, BitVec.reduceToNat]

theorem decode_btfss : decode (0b0111#4 ++ b ++ f) = .ok (.btfss f b) := by
  simp only [decode, bitFormat_opcode, bitFormat_bit, bitFormat_file, BitVec.reduceToNat]

end BitFormat

/-! ### A bit as a digit of the value -/

theorem getLsbD_eq_true_iff (v : Byte) (n : Nat) :
    v.getLsbD n = true ↔ v.toNat / 2 ^ n % 2 = 1 := by
  rw [BitVec.getLsbD, Nat.testBit_eq_decide_div_mod_eq, decide_eq_true_iff]

theorem not_getLsbD_eq_true_iff (v : Byte) (n : Nat) :
    (!v.getLsbD n) = true ↔ v.toNat / 2 ^ n % 2 = 0 := by
  rw [Bool.not_eq_true', ← Bool.not_eq_true, getLsbD_eq_true_iff, Nat.mod_two_not_eq_one]

end Sys2Proof

namespace Sys2Proof.Machine

/-- A skip goes by the truth of its condition alone: one word further in two cycles, or one cycle. -/
theorem skipWhen_of_iff {c : Bool} {p : Prop} [Decidable p] (h : c = true ↔ p) (s : State) :
    skipWhen c s =
      if p then { s with pc := s.pc + 1#9, now := s.now + 2 } else { s with now := s.now + 1 } := by
  simp only [skipWhen_eq, h]

/-- Settles O26: each instruction is one `skipWhen` on the tested bit of the value read. -/
theorem bitTestsSkip : Obligations.BitTestsSkip := by
  intro f b s
  have clear_iff := not_getLsbD_eq_true_iff (readOperand f s) b.toNat
  have set_iff := getLsbD_eq_true_iff (readOperand f s) b.toNat
  refine ⟨⟨decode_btfsc b f, ?btfsc⟩, ⟨decode_btfss b f, ?btfss⟩⟩
  case btfsc => exact ⟨_, rfl, skipWhen_of_iff clear_iff s⟩
  case btfss => exact ⟨_, rfl, skipWhen_of_iff set_iff s⟩

end Sys2Proof.Machine
end

section
/-!
PROOFS. The literal and jump instructions (spec 42_literal_control.md R145, R148 to R150, R155): how a
word of the LIT8 and LIT9 formats decodes, and when a result in W sets Z.
-/

namespace Sys2Proof

/-! ### The fields of a word of the LIT8 format (R97) -/

section Lit8

variable (op : BitVec 4) (k : Byte)

theorem lit8_opcode : (op ++ k : InstrWord).extractLsb' 8 4 = op :=
  BitVec.extractLsb'_append_eq_left

theorem lit8_literal : (op ++ k : InstrWord).extractLsb' 0 8 = k :=
  BitVec.extractLsb'_append_eq_right

/-- Opcode 12 of the LIT8 format is MOVLW, 13 IORLW, 14 ANDLW and 15 XORLW (R99, R100). -/
theorem decode_movlw : decode (0b1100#4 ++ k) = .ok (.movlw k) := by
  simp only [decode, lit8_opcode, lit8_literal, BitVec.reduceToNat]

theorem decode_iorlw : decode (0b1101#4 ++ k) = .ok (.iorlw k) := by
  simp only [decode, lit8_opcode, lit8_literal, BitVec.reduceToNat]

theorem decode_andlw : decode (0b1110#4 ++ k) = .ok (.andlw k) := by
  simp only [decode, lit8_opcode, lit8_literal, BitVec.reduceToNat]

theorem decode_xorlw : decode (0b1111#4 ++ k) = .ok (.xorlw k) := by
  simp only [decode, lit8_opcode, lit8_literal, BitVec.reduceToNat]

end Lit8

/-! ### The fields of a word of the LIT9 format (R97) -/

section Lit9

variable (op : BitVec 3) (k : ProgAddr)

/-- The decoder's four opcode bits take in the top bit of the nine-bit literal. -/
theorem lit9_opcode :
    (op ++ k : InstrWord).extractLsb' 8 4 = op ++ k.extractLsb' 8 1 := by
  rw [BitVec.extractLsb'_append_eq_ite, dif_pos (by decide), dif_neg (by decide), BitVec.cast_eq]
  exact congrArg (· ++ k.extractLsb' 8 1) BitVec.extractLsb'_eq_self

theorem lit9_literal : (op ++ k : InstrWord).extractLsb' 0 9 = k :=
  BitVec.extractLsb'_append_eq_right

/-- Whichever the literal's top bit is, the opcode is one of GOTO's two, 10 and 11 (R99, R100). -/
theorem decode_goto : decode (0b101#3 ++ k) = .ok (.goto k) := by
  rcases BitVec.eq_zero_or_eq_one (k.extractLsb' 8 1) with hbit | hbit <;>
    simp only [decode, lit9_opcode, lit9_literal, hbit, BitVec.reduceAppend,
      BitVec.reduceToNat]

end Lit9

end Sys2Proof

namespace Sys2Proof.Machine

/-- The zero flag of a result, by any condition that says the result is zero. -/
theorem zeroFlag_bits_eq_onlyZ {r : Byte} {z : Prop} [Decidable z] (h : r = 0#8 ↔ z) :
    (zeroFlag r).bits = onlyZ z := by
  funext b
  match b with
  | 0 | 1 | _ + 3 => rfl
  | 2 => simp only [FlagUpdate.bits, zeroFlag, onlyZ, beq_eq_decide, h]

theorem storeW_wResult_onlyZ {r : Byte} {z : Prop} [Decidable z] (h : r = 0#8 ↔ z) (s : State) :
    WResult s (storeW r s) r (onlyZ z) :=
  zeroFlag_bits_eq_onlyZ h ▸ storeW_wResult r s

/-- Settles O27: each instruction is one `storeW`; an OR is zero iff both operands are, and an
exclusive OR iff they are equal. -/
theorem logicOpsWithLiteral : Obligations.LogicOpsWithLiteral := by
  intro k s
  have and_zero : s.w &&& k = 0#8 ↔ (s.w &&& k).toNat = 0 := BitVec.toNat_inj.symm
  have or_zero : s.w ||| k = 0#8 ↔ s.w = 0#8 ∧ k = 0#8 := BitVec.or_eq_zero_iff
  have xor_zero : s.w ^^^ k = 0#8 ↔ s.w = k := BitVec.xor_eq_zero_iff
  refine ⟨⟨decode_andlw k, ?andlw⟩, ⟨decode_iorlw k, ?iorlw⟩, ⟨decode_xorlw k, ?xorlw⟩⟩
  case andlw => exact ⟨_, rfl, storeW_wResult_onlyZ and_zero s⟩
  case iorlw => exact ⟨_, rfl, storeW_wResult_onlyZ or_zero s⟩
  case xorlw => exact ⟨_, rfl, storeW_wResult_onlyZ xor_zero s⟩

/-- Settles O28: MOVLW stores its literal in W and spends one cycle. -/
theorem movlwLoadsLiteral : Obligations.MovlwLoadsLiteral :=
  fun k _ => ⟨decode_movlw k, _, rfl, rfl⟩

/-- Settles O31: GOTO stores its literal in pc and spends two cycles. -/
theorem gotoLoadsNineBits : Obligations.GotoLoadsNineBits :=
  fun k _ => ⟨decode_goto k, _, rfl, rfl⟩

end Sys2Proof.Machine
end

section
/-!
PROOFS. The decoder and the encoder (spec 30_encoding.md): every word of the opcode table decodes to its
instruction, a word is put together again from the fields the decoder reads, and which words decode to
nothing.
-/

namespace Sys2Proof

/-! ### The fields of a word of the BYTE format (R97, R98) -/

section ByteFormat

variable (op : BitVec 6) (d : Dest) (f : FileAddr)

theorem byteFormat_opcode : (op ++ d.bit ++ f : InstrWord).extractLsb' 6 6 = op := by
  rw [BitVec.append_assoc, BitVec.cast_eq]
  exact BitVec.extractLsb'_append_eq_left

theorem byteFormat_file : (op ++ d.bit ++ f : InstrWord).extractLsb' 0 5 = f :=
  BitVec.extractLsb'_append_eq_right

theorem byteFormat_high : (op ++ d.bit ++ f : InstrWord).extractLsb' 8 4 = op.extractLsb' 2 4 := by
  rw [BitVec.extractLsb'_append_eq_of_le (by decide), BitVec.extractLsb'_append_eq_of_le (by decide)]

theorem byteFormat_bit5 : (op ++ d.bit ++ f : InstrWord).getLsbD 5 = (d == .f) := by
  rw [BitVec.getLsbD_append, if_neg (by decide), BitVec.getLsbD_append, if_pos (by decide)]
  cases d <;> rfl

theorem byteFormat_dest : destField (op ++ d.bit ++ f) = d := by
  rw [destField, byteFormat_bit5]
  cases d <;> rfl

end ByteFormat

/-! ### The rows of the opcode table decode to their instructions (R99, R100) -/

section Rows

variable (d : Dest) (f : FileAddr) (b : BitVec 3) (k : Byte)

/-- An opcode below 16 sends the decoder to the BYTE format. -/
theorem decode_byteFormat (op : BitVec 6) (h : (op.extractLsb' 2 4).toNat < 4) :
    decode (op ++ d.bit ++ f) = decodeByte (op ++ d.bit ++ f) := by
  simp only [decode, byteFormat_high]
  split <;> first | omega | rfl

theorem decode_movwf : decode (0b0000001#7 ++ f) = .ok (.movwf f) := by
  change decode (0b000000#6 ++ Dest.f.bit ++ f) = _
  rw [decode_byteFormat _ _ _ (by decide)]
  simp only [decodeByte, byteFormat_opcode, byteFormat_file, byteFormat_bit5, BitVec.reduceToNat,
    beq_self_eq_true, if_true]

theorem decode_clrf : decode (0b0000011#7 ++ f) = .ok (.clrf f) := by
  change decode (0b000001#6 ++ Dest.f.bit ++ f) = _
  rw [decode_byteFormat _ _ _ (by decide)]
  simp only [decodeByte, byteFormat_opcode, byteFormat_file, byteFormat_bit5, BitVec.reduceToNat,
    beq_self_eq_true, if_true]

theorem decode_subwf : decode (0b000010#6 ++ d.bit ++ f) = .ok (.subwf f d) := by
  rw [decode_byteFormat _ _ _ (by decide)]
  simp only [decodeByte, byteFormat_opcode, byteFormat_file, byteFormat_dest, BitVec.reduceToNat]

theorem decode_decf : decode (0b000011#6 ++ d.bit ++ f) = .ok (.decf f d) := by
  rw [decode_byteFormat _ _ _ (by decide)]
  simp only [decodeByte, byteFormat_opcode, byteFormat_file, byteFormat_dest, BitVec.reduceToNat]

theorem decode_iorwf : decode (0b000100#6 ++ d.bit ++ f) = .ok (.iorwf f d) := by
  rw [decode_byteFormat _ _ _ (by decide)]
  simp only [decodeByte, byteFormat_opcode, byteFormat_file, byteFormat_dest, BitVec.reduceToNat]

theorem decode_andwf : decode (0b000101#6 ++ d.bit ++ f) = .ok (.andwf f d) := by
  rw [decode_byteFormat _ _ _ (by decide)]
  simp only [decodeByte, byteFormat_opcode, byteFormat_file, byteFormat_dest, BitVec.reduceToNat]

theorem decode_xorwf : decode (0b000110#6 ++ d.bit ++ f) = .ok (.xorwf f d) := by
  rw [decode_byteFormat _ _ _ (by decide)]
  simp only [decodeByte, byteFormat_opcode, byteFormat_file, byteFormat_dest, BitVec.reduceToNat]

theorem decode_addwf : decode (0b000111#6 ++ d.bit ++ f) = .ok (.addwf f d) := by
  rw [decode_byteFormat _ _ _ (by decide)]
  simp only [decodeByte, byteFormat_opcode, byteFormat_file, byteFormat_dest, BitVec.reduceToNat]

theorem decode_movf : decode (0b001000#6 ++ d.bit ++ f) = .ok (.movf f d) := by
  rw [decode_byteFormat _ _ _ (by decide)]
  simp only [decodeByte, byteFormat_opcode, byteFormat_file, byteFormat_dest, BitVec.reduceToNat]

theorem decode_comf : decode (0b001001#6 ++ d.bit ++ f) = .ok (.comf f d) := by
  rw [decode_byteFormat _ _ _ (by decide)]
  simp only [decodeByte, byteFormat_opcode, byteFormat_file, byteFormat_dest, BitVec.reduceToNat]

theorem decode_incf : decode (0b001010#6 ++ d.bit ++ f) = .ok (.incf f d) := by
  rw [decode_byteFormat _ _ _ (by decide)]
  simp only [decodeByte, byteFormat_opcode, byteFormat_file, byteFormat_dest, BitVec.reduceToNat]

theorem decode_decfsz : decode (0b001011#6 ++ d.bit ++ f) = .ok (.decfsz f d) := by
  rw [decode_byteFormat _ _ _ (by decide)]
  simp only [decodeByte, byteFormat_opcode, byteFormat_file, byteFormat_dest, BitVec.reduceToNat]

theorem decode_rrf : decode (0b001100#6 ++ d.bit ++ f) = .ok (.rrf f d) := by
  rw [decode_byteFormat _ _ _ (by decide)]
  simp only [decodeByte, byteFormat_opcode, byteFormat_file, byteFormat_dest, BitVec.reduceToNat]

theorem decode_rlf : decode (0b001101#6 ++ d.bit ++ f) = .ok (.rlf f d) := by
  rw [decode_byteFormat _ _ _ (by decide)]
  simp only [decodeByte, byteFormat_opcode, byteFormat_file, byteFormat_dest, BitVec.reduceToNat]

theorem decode_swapf : decode (0b001110#6 ++ d.bit ++ f) = .ok (.swapf f d) := by
  rw [decode_byteFormat _ _ _ (by decide)]
  simp only [decodeByte, byteFormat_opcode, byteFormat_file, byteFormat_dest, BitVec.reduceToNat]

theorem decode_incfsz : decode (0b001111#6 ++ d.bit ++ f) = .ok (.incfsz f d) := by
  rw [decode_byteFormat _ _ _ (by decide)]
  simp only [decodeByte, byteFormat_opcode, byteFormat_file, byteFormat_dest, BitVec.reduceToNat]

theorem decode_bcf : decode (0b0100#4 ++ b ++ f) = .ok (.bcf f b) := by
  simp only [decode, bitFormat_opcode, bitFormat_bit, bitFormat_file, BitVec.reduceToNat]

theorem decode_bsf : decode (0b0101#4 ++ b ++ f) = .ok (.bsf f b) := by
  simp only [decode, bitFormat_opcode, bitFormat_bit, bitFormat_file, BitVec.reduceToNat]

theorem decode_retlw : decode (0b1000#4 ++ k) = .ok (.retlw k) := by
  simp only [decode, lit8_opcode, lit8_literal, BitVec.reduceToNat]

theorem decode_call : decode (0b1001#4 ++ k) = .ok (.call k) := by
  simp only [decode, lit8_opcode, lit8_literal, BitVec.reduceToNat]

end Rows

/-- Settles O1: row by row; a well-formed TRIS names port 6. -/
theorem encodeThenDecode : Obligations.EncodeThenDecode
  | .addwf f d, _ => decode_addwf d f
  | .andwf f d, _ => decode_andwf d f
  | .clrf f, _ => decode_clrf f
  | .clrw, _ => rfl
  | .comf f d, _ => decode_comf d f
  | .decf f d, _ => decode_decf d f
  | .decfsz f d, _ => decode_decfsz d f
  | .incf f d, _ => decode_incf d f
  | .incfsz f d, _ => decode_incfsz d f
  | .iorwf f d, _ => decode_iorwf d f
  | .movf f d, _ => decode_movf d f
  | .movwf f, _ => decode_movwf f
  | .nop, _ => rfl
  | .rlf f d, _ => decode_rlf d f
  | .rrf f d, _ => decode_rrf d f
  | .subwf f d, _ => decode_subwf d f
  | .swapf f d, _ => decode_swapf d f
  | .xorwf f d, _ => decode_xorwf d f
  | .bcf f b, _ => decode_bcf f b
  | .bsf f b, _ => decode_bsf f b
  | .btfsc f b, _ => decode_btfsc b f
  | .btfss f b, _ => decode_btfss b f
  | .andlw k, _ => decode_andlw k
  | .call k, _ => decode_call k
  | .clrwdt, _ => rfl
  | .goto k, _ => decode_goto k
  | .iorlw k, _ => decode_iorlw k
  | .movlw k, _ => decode_movlw k
  | .option, _ => rfl
  | .retlw k, _ => decode_retlw k
  | .sleep, _ => rfl
  | .tris f, hwf => by
    obtain rfl : f = 6#3 := eq_of_beq hwf
    rfl
  | .xorlw k, _ => decode_xorlw k

/-! ### A word from the fields the decoder reads -/

section Fields

variable (word : InstrWord)

theorem destField_bit : (destField word).bit = word.extractLsb' 5 1 := by
  rw [destField, BitVec.getLsbD_eq_extractLsb']
  rcases BitVec.eq_zero_or_eq_one (word.extractLsb' 5 1) with hbit | hbit <;> rw [hbit] <;> rfl

theorem bit5_eq_true_iff : word.getLsbD 5 = true ↔ word.toNat / 32 % 2 = 1 := by
  rw [BitVec.getLsbD, Nat.testBit_eq_decide_div_mod_eq, decide_eq_true_iff]

variable {word} {n : Nat}

theorem byteFormat_of_opcode (h : (word.extractLsb' 6 6).toNat = n) :
    BitVec.ofNat 6 n ++ (destField word).bit ++ word.extractLsb' 0 5 = word := by
  rw [← h, BitVec.ofNat_toNat, BitVec.setWidth_eq, destField_bit,
    BitVec.extractLsb'_append_extractLsb'_eq_extractLsb' (start₁ := 5) (len₁ := 1) rfl,
    BitVec.extractLsb'_append_extractLsb'_eq_extractLsb' (start₁ := 0) (len₁ := 5) rfl,
    BitVec.extractLsb'_eq_self]

/-- The words of MOVWF and CLRF: the destination bit belongs to the opcode. -/
theorem fileFormat_of_opcode (hop : (word.extractLsb' 6 6).toNat = n) (hd : word.getLsbD 5 = true) :
    BitVec.ofNat 7 (2 * n + 1) ++ word.extractLsb' 0 5 = word := by
  have hop7 : BitVec.ofNat 7 (2 * n + 1) = word.extractLsb' 5 7 := by
    apply BitVec.eq_of_toNat_eq
    rw [bit5_eq_true_iff] at hd
    rw [← hop, BitVec.toNat_ofNat, BitVec.extractLsb'_toNat, BitVec.extractLsb'_toNat,
      Nat.shiftRight_eq_div_pow, Nat.shiftRight_eq_div_pow]
    omega
  rw [hop7, BitVec.extractLsb'_append_extractLsb'_eq_extractLsb' (start₁ := 0) (len₁ := 5) rfl,
    BitVec.extractLsb'_eq_self]

/-- The words of the control group, and CLRW, are given by their low five bits. -/
theorem byteFormat_of_fields {m : Nat} (hop : (word.extractLsb' 6 6).toNat = n)
    (hd : word.getLsbD 5 = false) (hf : (word.extractLsb' 0 5).toNat = m) :
    BitVec.ofNat 6 n ++ Dest.w.bit ++ BitVec.ofNat 5 m = word := by
  have hdest : destField word = .w := if_neg (by rw [hd]; decide)
  rw [← hdest, ← hf, BitVec.ofNat_toNat, BitVec.setWidth_eq, byteFormat_of_opcode hop]

theorem bitFormat_of_opcode (h : (word.extractLsb' 8 4).toNat = n) :
    BitVec.ofNat 4 n ++ word.extractLsb' 5 3 ++ word.extractLsb' 0 5 = word := by
  rw [← h, BitVec.ofNat_toNat, BitVec.setWidth_eq,
    BitVec.extractLsb'_append_extractLsb'_eq_extractLsb' (start₁ := 5) (len₁ := 3) rfl,
    BitVec.extractLsb'_append_extractLsb'_eq_extractLsb' (start₁ := 0) (len₁ := 5) rfl,
    BitVec.extractLsb'_eq_self]

theorem lit8_of_opcode (h : (word.extractLsb' 8 4).toNat = n) :
    BitVec.ofNat 4 n ++ word.extractLsb' 0 8 = word := by
  rw [← h, BitVec.ofNat_toNat, BitVec.setWidth_eq,
    BitVec.extractLsb'_append_extractLsb'_eq_extractLsb' (start₁ := 0) (len₁ := 8) rfl,
    BitVec.extractLsb'_eq_self]

theorem lit9_of_opcode (h : (word.extractLsb' 8 4).toNat / 2 = n) :
    BitVec.ofNat 3 n ++ word.extractLsb' 0 9 = word := by
  have hop : BitVec.ofNat 3 n = word.extractLsb' 9 3 := by
    apply BitVec.eq_of_toNat_eq
    rw [← h, BitVec.toNat_ofNat, BitVec.extractLsb'_toNat, BitVec.extractLsb'_toNat,
      Nat.shiftRight_eq_div_pow, Nat.shiftRight_eq_div_pow]
    omega
  rw [hop, BitVec.extractLsb'_append_extractLsb'_eq_extractLsb' (start₁ := 0) (len₁ := 9) rfl,
    BitVec.extractLsb'_eq_self]

end Fields

/-! ### What decodes, and to what -/

section Decoded

variable {word : InstrWord} {i : Instr}

/-- The decoder's first four bits are the upper ones of the BYTE format's opcode. -/
theorem high_eq_opcode_div (word : InstrWord) :
    (word.extractLsb' 8 4).toNat = (word.extractLsb' 6 6).toNat / 4 := by
  simp only [BitVec.extractLsb'_toNat, Nat.shiftRight_eq_div_pow]
  omega

theorem encode_of_decodeControl (hop : (word.extractLsb' 6 6).toNat = 0)
    (hd : word.getLsbD 5 = false) (h : decodeControl word = .ok i) :
    i.wellFormed = true ∧ encode i = word := by
  unfold decodeControl at h
  split at h <;> cases h <;> rename_i hf <;> exact ⟨rfl, byteFormat_of_fields hop hd hf⟩

theorem encode_of_decodeByte (hop : (word.extractLsb' 6 6).toNat < 16)
    (h : decodeByte word = .ok i) : i.wellFormed = true ∧ encode i = word := by
  unfold decodeByte at h
  split at h
  case h_1 hop =>
    split at h
    case isTrue hd =>
      cases h
      exact ⟨rfl, fileFormat_of_opcode (n := 0) hop hd⟩
    case isFalse hd => exact encode_of_decodeControl hop (Bool.eq_false_iff.mpr hd) h
  case h_2 hop =>
    split at h
    case isTrue hd =>
      cases h
      exact ⟨rfl, fileFormat_of_opcode (n := 1) hop hd⟩
    case isFalse hd =>
      dsimp only at h
      split at h <;> cases h
      rename_i hf
      exact ⟨rfl, byteFormat_of_fields hop (Bool.eq_false_iff.mpr hd) (congrArg BitVec.toNat hf)⟩
  case h_16 =>
    cases h
    simp only [imp_false] at *
    have hop : (word.extractLsb' 6 6).toNat = 15 := by omega
    exact ⟨rfl, byteFormat_of_opcode hop⟩
  all_goals
    cases h
    rename_i hop
    exact ⟨rfl, byteFormat_of_opcode hop⟩

/-- Settles O2: each arm of the decoder has fixed the opcode, so the word is the opcode and the operand
fields that arm read. -/
theorem decodeThenEncode : Obligations.DecodeThenEncode := by
  intro word i h
  unfold decode at h
  split at h
  case h_13 =>
    simp only [imp_false] at *
    have hlow : (word.extractLsb' 8 4).toNat < 4 := by omega
    have hhigh := high_eq_opcode_div word
    exact encode_of_decodeByte (by omega) h
  all_goals
    cases h
    rename_i hop
  case h_1 | h_2 | h_3 | h_4 => exact ⟨rfl, bitFormat_of_opcode hop⟩
  case h_7 | h_8 => exact ⟨rfl, lit9_of_opcode (n := 5) (by rw [hop])⟩
  all_goals exact ⟨rfl, lit8_of_opcode hop⟩

/-! ### What decodes to nothing (R104) -/

theorem decodeControl_eq_error_iff :
    decodeControl word = .error .unassigned ↔ (word.extractLsb' 0 5).toNat = 1 ∨
      (word.extractLsb' 0 5).toNat = 5 ∨ 7 ≤ (word.extractLsb' 0 5).toNat := by
  unfold decodeControl
  split
  case h_6 => 
    simp only [imp_false, true_iff] at *
    omega
  all_goals
    simp only [reduceCtorEq, false_iff]
    omega

theorem decodeByte_eq_error_iff :
    decodeByte word = .error .unassigned ↔ word.getLsbD 5 = false ∧
      ((word.extractLsb' 6 6).toNat = 0 ∧ decodeControl word = .error .unassigned ∨
        (word.extractLsb' 6 6).toNat = 1 ∧ (word.extractLsb' 0 5).toNat ≠ 0) := by
  have hzero : word.extractLsb' 0 5 = 0#5 ↔ (word.extractLsb' 0 5).toNat = 0 := BitVec.toNat_inj.symm
  unfold decodeByte
  split
  case h_1 hop => cases word.getLsbD 5 <;> simp [hop]
  case h_2 hop => cases word.getLsbD 5 <;> simp [hop, hzero]
  all_goals simp_all

/-- Only the arm of the BYTE format can decode to nothing. -/
theorem decode_eq_error_iff :
    decode word = .error .unassigned ↔
      (word.extractLsb' 6 6).toNat < 16 ∧ decodeByte word = .error .unassigned := by
  have hhigh := high_eq_opcode_div word
  unfold decode
  split
  case h_13 =>
    simp only [imp_false] at *
    have hlow : (word.extractLsb' 8 4).toNat < 4 := by omega
    exact (and_iff_right (by omega)).symm
  all_goals
    simp only [reduceCtorEq, false_iff, not_and]
    omega

/-- Exactly the 58 words of R104 decode to nothing. -/
theorem decode_eq_error_iff_unassignedWord :
    decode word = .error .unassigned ↔ unassignedWord word.toNat := by
  have hd : word.getLsbD 5 = false ↔ word.toNat / 32 % 2 = 0 := by
    rw [← Bool.not_eq_true, bit5_eq_true_iff, Nat.mod_two_not_eq_one]
  rw [decode_eq_error_iff, decodeByte_eq_error_iff, decodeControl_eq_error_iff, hd, unassignedWord]
  simp only [BitVec.extractLsb'_toNat, Nat.shiftRight_eq_div_pow]
  omega

end Decoded

/-! ### Hand-written words -/

/-- Settles O4: each word is `encode` of its instruction. -/
theorem handWrittenWordsDecode : Obligations.HandWrittenWordsDecode :=
  ⟨encodeThenDecode (.addwf 0x10#5 .f) rfl, encodeThenDecode (.clrf 0x10#5) rfl,
    encodeThenDecode (.btfsc 0x04#5 4#3) rfl, encodeThenDecode (.call 0x40#8) rfl,
    encodeThenDecode (.goto 0x1A5#9) rfl, encodeThenDecode .clrwdt rfl,
    encodeThenDecode (.tris 6#3) rfl⟩

end Sys2Proof

end

section
/-!
PROOFS. What an instruction changes and what it leaves alone, over all instructions (spec 10_state.md
R26, R29, R51, R56, 20_memory.md R71, 70_reset_and_hazards.md R200): each rule is a case split on
`ExecForm`, and the forms that store go through one frame.
-/

namespace Sys2Proof.Machine

/-- Settles O6: every arm of `exec` answers a next state, TRIS because its operand is 6. -/
theorem everyInstructionCompletes : Obligations.EveryInstructionCompletes := by
  intro i s hwf
  cases i
  case tris f =>
    obtain rfl : f = 6#3 := eq_of_beq hwf
    exact ⟨_, rfl, trivial⟩
  all_goals exact ⟨_, rfl, trivial⟩

/-! ### The frame of a stored result -/

/-- What storing a result leaves of the state, pc, STATUS and the time aside; `target` is the file
register it goes to, or nothing when it goes to W. -/
structure StoreFrame (s t : State) (target : Option FileAddr) : Prop where
  w : target ≠ none → t.w = s.w
  stack : t.stack = s.stack
  trisgpio : t.trisgpio = s.trisgpio
  option : t.option = s.option
  wdt : t.wdt = s.wdt
  sleeping : t.sleeping = s.sleeping
  prog : t.prog = s.prog
  params : t.params = s.params
  events : t.events = s.events
  ram : ∀ n, (∀ a, target = some a → a.toNat ≠ n) → Memory.read n t.ram = Memory.read n s.ram
  tmr0 : target ≠ some 1#5 → t.tmr0 = s.tmr0
  fsr : target ≠ some 4#5 → t.fsr = s.fsr
  osccal : target ≠ some 5#5 → t.osccal = s.osccal
  gplat : target ≠ some 6#5 → t.gplat = s.gplat
  cmcon0 : target ≠ some 7#5 → t.cmcon0 = s.cmcon0
  prescaler : target ≠ some 1#5 → t.prescaler = s.prescaler
  prescalerOfTmr0 : target = some 1#5 →
    t.prescaler = if s.option.getLsbD 3 then s.prescaler else 0#8

/-- The destination of a result that an instruction stores in W or at `f`. -/
def storeTarget (f : FileAddr) (d : Dest) (s : State) : Option FileAddr :=
  if d = .f then some (effAddr f s) else none

section Frames

variable {a : FileAddr} {r : Byte} {s t : State}

theorem FileWrite.storeFrame (h : FileWrite s t a r) : StoreFrame s t (some a) where
  w _ := h.w
  stack := h.stack
  trisgpio := h.trisgpio
  option := h.option
  wdt := h.wdt
  sleeping := h.sleeping
  prog := h.prog
  params := h.params
  events := h.events
  ram n hn := (h.ram n).trans (if_neg fun hc => hn a rfl hc.1.symm)
  tmr0 ha := h.tmr0.trans (if_neg fun hc => ha (congrArg some hc))
  fsr ha := h.fsr.trans (if_neg fun hc => ha (congrArg some hc))
  osccal ha := h.osccal.trans (if_neg fun hc => ha (congrArg some hc))
  gplat ha := h.gplat.trans (if_neg fun hc => ha (congrArg some hc))
  cmcon0 ha := h.cmcon0.trans (if_neg fun hc => ha (congrArg some hc.1))
  prescaler ha := h.prescaler.trans (if_neg fun hc => ha (congrArg some hc.1))
  prescalerOfTmr0 ha := by
    rw [h.prescaler]
    cases s.option.getLsbD 3 <;> simp [Option.some.inj ha]

theorem StoreFrame.of_eq {x y : Option FileAddr} (h : StoreFrame s t x) (heq : y = x) :
    StoreFrame s t y :=
  heq ▸ h

variable (f : FileAddr) (d : Dest) (r : Byte) (s : State)

theorem writeDest_frame : StoreFrame s (writeDest d (effAddr f s) r s) (storeTarget f d s) := by
  cases d with
  | f => exact (writeFile_fileWrite (effAddr f s) r s).storeFrame
  | w => constructor <;> simp [writeDest, storeTarget]

theorem storeResult_frame (u : FlagUpdate) :
    StoreFrame s (storeResult f d r u s) (storeTarget f d s) :=
  { writeDest_frame f d r s with }

/-- A count into PCL is framed as the write to PCL would be: only pc and the time change. -/
theorem storeCount_frame : StoreFrame s (storeCount f d r s) (storeTarget f d s) := by
  have hframe := writeDest_frame f d r s
  unfold storeCount
  split
  case isTrue hpcl =>
    obtain ⟨rfl, ha⟩ := (writesPcl_iff _ _ _).mp hpcl
    rw [ha] at hframe
    exact { hframe with }
  case isFalse => split <;> exact { hframe with }

end Frames

/-! ### pc, STATUS and the time of the storing operations -/

section Stores

variable (f : FileAddr) (d : Dest) (r : Byte) (u : FlagUpdate) (s : State)

theorem writeDest_pc (a : FileAddr) :
    (writeDest d a r s).pc = if d = .f ∧ a = 2#5 then r.setWidth 9 else s.pc := by
  cases d with
  | w => rfl
  | f => simp only [writeDest, (writeFile_fileWrite a r s).pc, true_and]

@[simp] theorem writeDest_now (a : FileAddr) : (writeDest d a r s).now = s.now := by
  cases d with
  | w => rfl
  | f => exact writeFile_now a r s

theorem storeResult_pc :
    (storeResult f d r u s).pc = if d = .f ∧ effAddr f s = 2#5 then r.setWidth 9 else s.pc :=
  writeDest_pc d r s _

theorem storeResult_now :
    (storeResult f d r u s).now = s.now + if d = .f ∧ effAddr f s = 2#5 then 2 else 1 := by
  simp only [storeResult, spend_now, setFlags_now, writeDest_now, writesPcl_iff]

theorem storeCount_now :
    (storeCount f d r s).now =
      s.now + if r = 0#8 ∨ (d = .f ∧ effAddr f s = 2#5) then 2 else 1 := by
  simp only [storeCount, writesPcl_iff]
  split
  case isTrue hpcl => simp [hpcl]
  case isFalse hpcl => split <;> simp [*]

variable {f d}

theorem storeCount_pc (h : ¬ (d = .f ∧ effAddr f s = 2#5)) :
    (storeCount f d r s).pc = if r = 0#8 then s.pc + 1#9 else s.pc := by
  simp only [storeCount, writesPcl_iff, if_neg h]
  split <;> simp only [spend_pc, skip_pc, writeDest_pc, if_neg h]

end Stores

section Status

variable {s t : State} {f : FileAddr} {d : Dest} {r : Byte} {target : Option FileAddr}
  {flag : Nat → Option Bool} {bit : Nat}

theorem ByteResult.statusAfter (h : ByteResult s t f d r flag) :
    StatusAfter s t (storeTarget f d s) r flag := by
  cases d with
  | w => exact h.2
  | f => exact h.2.1

theorem storeCount_statusAfter (f : FileAddr) (d : Dest) (r : Byte) (s : State) :
    StatusAfter s (storeCount f d r s) (storeTarget f d s) r noFlags := by
  by_cases h : d = .f ∧ effAddr f s = 2#5
  · obtain ⟨rfl, ha⟩ := h
    rw [storeCount_pcl f r s ha]
    intro i _
    simp [noFlags, storeTarget, ha]
  · obtain ⟨u, hu, ht⟩ := storeCount_spec f d r s h
    have hstatus : (storeCount f d r s).status = u.status := by
      rw [ht]
      split <;> rfl
    intro i hi
    rw [hstatus]
    exact hu.statusAfter i hi

/-- A bit that is no flag changes only by a write to STATUS, and TO and PD not even then. -/
theorem StatusAfter.getLsbD_eq (h : StatusAfter s t target r flag) (hflag : flag bit = none)
    (htarget : target ≠ some 3#5 ∨ bit = 3 ∨ bit = 4) :
    t.status.getLsbD bit = s.status.getLsbD bit := by
  by_cases hbit : bit < 8
  · have hkept : ¬ (target = some 3#5 ∧ bit ≠ 3 ∧ bit ≠ 4) := by
      rintro ⟨ht, h3, h4⟩
      simp [ht, h3, h4] at htarget
    rw [h bit hbit, hflag]
    exact if_neg hkept
  · rw [BitVec.getLsbD_of_ge _ _ (by omega), BitVec.getLsbD_of_ge _ _ (by omega)]

theorem putTimeoutPowerDown_getLsbD_eq (x y : Bool) (v : Byte) (h : bit ∉ [3, 4]) :
    (putTimeoutPowerDown x y v).getLsbD bit = v.getLsbD bit := by
  simp only [List.mem_cons, List.not_mem_nil, or_false, not_or] at h
  rw [putTimeoutPowerDown, putBit_getLsbD_ne _ _ _ _ h.2, putBit_getLsbD_ne _ _ _ _ h.1]

end Status

/-! ### The rules over all instructions -/

theorem storeTarget_eq_some_iff {f a : FileAddr} {d : Dest} {s : State} :
    storeTarget f d s = some a ↔ d = .f ∧ effAddr f s = a := by
  cases d <;> simp [storeTarget]

/-- Settles O36: a form that stores writes STATUS as R57 says, CLRWDT and SLEEP write TO and PD, and the
others leave STATUS alone. -/
theorem onlyListedFlagsAreAffected : Obligations.OnlyListedFlagsAreAffected := by
  intro i s t bit hexec haffects htarget
  cases exec_form hexec with
  | store f d r u target _ _ _ flags =>
    rw [target] at htarget
    exact (storeResult_byteResult f d r u s).statusAfter.getLsbD_eq (flags bit haffects) htarget
  | count f d r target =>
    rw [target] at htarget
    exact (storeCount_statusAfter f d r s).getLsbD_eq rfl htarget
  | test c => cases c <;> rfl
  | clrwdt eq | sleep eq =>
    subst eq
    exact putTimeoutPowerDown_getLsbD_eq _ _ _ haffects
  | call | goto | retlw | movlw | nop | tris | option => rfl

/-- Settles O37: a form that stores changes W at most, and every other form changes what its
instruction is named for. -/
theorem registersHaveTheirWriters : Obligations.RegistersHaveTheirWriters := by
  intro i s t hexec
  cases exec_form hexec with
  | store f d r u _ _ _ writesW =>
    have h := storeResult_frame f d r s u
    exact ⟨fun hw => h.w (by simp [storeTarget, writesW hw]), fun _ _ => h.stack,
      fun _ => h.trisgpio, fun _ => h.option, fun _ => h.sleeping, h.prog, h.params, h.events⟩
  | count f d r _ _ _ writesW =>
    have h := storeCount_frame f d r s
    exact ⟨fun hw => h.w (by simp [storeTarget, writesW hw]), fun _ _ => h.stack,
      fun _ => h.trisgpio, fun _ => h.option, fun _ => h.sleeping, h.prog, h.params, h.events⟩
  | test c => cases c <;> simp [skipWhen]
  | call k eq | goto k eq | retlw k eq | movlw k eq | nop eq | tris eq | option p eq | clrwdt eq
  | sleep eq => subst eq; simp [Instr.writesW]

/-- Settles O38: a form that stores has its frame; no other form writes a file register. -/
theorem onlyTheDestinationFileChanges : Obligations.OnlyTheDestinationFileChanges := by
  intro i s t hexec
  cases exec_form hexec with
  | store f d r u target =>
    have h : StoreFrame s _ (i.target s) := (storeResult_frame f d r s u).of_eq target
    exact ⟨h.ram, h.tmr0, h.fsr, h.osccal, h.gplat, h.cmcon0⟩
  | count f d r target =>
    have h : StoreFrame s _ (i.target s) := (storeCount_frame f d r s).of_eq target
    exact ⟨h.ram, h.tmr0, h.fsr, h.osccal, h.gplat, h.cmcon0⟩
  | test c => cases c <;> simp [skipWhen]
  | call | goto | retlw | movlw | nop | tris | option | clrwdt | sleep => simp

/-- Settles O39: of the forms that store, a write to TMR0 clears the prescaler; CLRWDT, SLEEP and OPTION
are named in the statement. -/
theorem prescalerAndWatchdogClears : Obligations.PrescalerAndWatchdogClears := by
  intro i s t hexec
  cases exec_form hexec with
  | store f d r u target =>
    have h : StoreFrame s _ (i.target s) := (storeResult_frame f d r s u).of_eq target
    exact ⟨h.prescalerOfTmr0, fun ht _ _ _ => h.prescaler ht, fun _ _ => h.wdt⟩
  | count f d r target =>
    have h : StoreFrame s _ (i.target s) := (storeCount_frame f d r s).of_eq target
    exact ⟨h.prescalerOfTmr0, fun ht _ _ _ => h.prescaler ht, fun _ _ => h.wdt⟩
  | test c target => cases c <;> simp [skipWhen, target]
  | call k eq | goto k eq | retlw k eq | movlw k eq | nop eq | tris eq | option p eq | clrwdt eq
  | sleep eq => subst eq; simp [Instr.target]

/-- Settles O40: a form that stores goes by whether PCL is the destination, a count and a bit test by
whether they skip, and each other form by its own target. -/
theorem waysPcChanges : Obligations.WaysPcChanges := by
  intro i s t hexec
  cases exec_form hexec with
  | store f d r u target noSkip noCount =>
    have hpcl : i.target s = some 2#5 ↔ d = .f ∧ effAddr f s = 2#5 :=
      target ▸ storeTarget_eq_some_iff
    simp only [storeResult_pc, ← hpcl, noSkip, noCount]
    by_cases h : i.target s = some 2#5 <;> simp [h]
  | count f d r target counts skips =>
    have hpcl : i.target s = some 2#5 ↔ d = .f ∧ effAddr f s = 2#5 :=
      target ▸ storeTarget_eq_some_iff
    by_cases h : i.target s = some 2#5
    · exact .inl ⟨counts, h⟩
    · rw [storeCount_pc r s (mt hpcl.mpr h)]
      have hskips : i.skips s = decide (r = 0#8) := Bool.eq_iff_iff.mpr (by simpa using skips)
      by_cases hr : r = 0#8 <;> simp [h, hr, hskips]
  | test c target noCount skips => cases c <;> simp [skipWhen, target, skips]
  | goto k eq => exact .inr (.inl ⟨k, eq, rfl⟩)
  | call k eq =>
    have hpc : (0#1 ++ k : ProgAddr) = BitVec.ofNat 9 k.toNat :=
      (zero_append_eq_setWidth k).trans (BitVec.ofNat_toNat 9 k).symm
    exact .inr (.inr (.inl ⟨k, eq, hpc⟩))
  | retlw k eq => exact .inr (.inr (.inr (.inl ⟨k, eq, rfl⟩)))
  | movlw k eq | nop eq | tris eq | option p eq | clrwdt eq | sleep eq =>
    subst eq; simp [Instr.target, Instr.skips]

/-- Settles O41: `ExecForm` gives each form the cycles of R200, and each form spends them. -/
theorem cycleCounts : Obligations.CycleCounts := by
  intro i s t hexec
  cases exec_form hexec with
  | store f d r u _ _ _ _ _ cycles => rw [storeResult_now, cycles]
  | count f d r _ _ skips _ _ cycles => simp only [storeCount_now, cycles, skips]
  | test c _ _ _ _ cycles => cases c <;> simp [skipWhen, cycles]
  | call k eq | goto k eq | retlw k eq | movlw k eq | nop eq | tris eq | option p eq | clrwdt eq
  | sleep eq => subst eq; rfl

end Sys2Proof.Machine
end

section
/-!
PROOFS. One step (spec 20_memory.md R81, 60_exceptions.md R162, R178): a step that runs an instruction,
the devices' share of it, and the uses it refuses.
-/

namespace Sys2Proof.Machine

/-! ### A step that fetches -/

section Fetches

variable {s t : State} {word : InstrWord} {i : Instr}

theorem step_of_awake (hreset : resetsNow s = []) (hawake : s.sleeping = false) :
    step s = stepInstr (passBoundary s) := by
  simp only [step, hreset, hawake, Bool.false_eq_true, if_false]

theorem step_of_asleep (hreset : resetsNow s = []) (hasleep : s.sleeping = true) :
    step s = .next (waitAsleep (passBoundary s)) := by
  simp only [step, hreset, hasleep, if_true]

theorem step_of_decode_error {e : DecodeRefusal} (hreset : resetsNow s = [])
    (hawake : s.sleeping = false) (hfetch : fetch s = some word) (hdecode : decode word = .error e) :
    step s = .refused (.unassignedOpcode word) := by
  have hfetch' : fetch (passBoundary s) = some word := hfetch
  simp only [step_of_awake hreset hawake, stepInstr, hfetch', hdecode]

theorem step_of_decode (hreset : resetsNow s = []) (hawake : s.sleeping = false)
    (hfetch : fetch s = some word) (hdecode : decode word = .ok i) :
    step s = runInstr i (advancePc (passBoundary s)) := by
  have hfetch' : fetch (passBoundary s) = some word := hfetch
  simp only [step_of_awake hreset hawake, stepInstr, hfetch', hdecode]

theorem runInstr_of_reserved {r : Refusal} (hexec : exec i s = .next t)
    (hres : reservedUse i s t = some r) : runInstr i s = .refused r := by
  simp only [runInstr, hexec, hres]

theorem runInstr_of_not_reserved (hexec : exec i s = .next t) (hres : reservedUse i s t = none) :
    runInstr i s = .next (runDevices (t.now - s.now) t) := by
  simp only [runInstr, hexec, hres]

end Fetches

/-! ### A run -/

theorem run_succ_of_step_next {s t : State} (h : step s = .next t) (k : Nat) :
    Host.Core.run core (k + 1) s = Host.Core.run core k t := by
  have hcore : core.step s = .next t := h
  simp only [Host.Core.run, hcore]

theorem run_succ_of_step_refused {s : State} {r : Refusal} (h : step s = .refused r) (k : Nat) :
    Host.Core.run core (k + 1) s = .refused r := by
  have hcore : core.step s = .refused r := h
  simp only [Host.Core.run, hcore]

/-- Settles O3: `decode_eq_error_iff_unassignedWord`, and the step refuses a word that decodes to
nothing. -/
theorem unassignedWordsAreRefused : Obligations.UnassignedWordsAreRefused := by
  intro word
  refine ⟨decode_eq_error_iff_unassignedWord, fun hword s hreset hawake hfetch => ?_⟩
  exact step_of_decode_error hreset hawake hfetch (decode_eq_error_iff_unassignedWord.mpr hword)

/-! ### The devices' share of a step -/

/-- Timer0 moves TMR0 only under the sketch, and the prescaler only when it also has it. -/
theorem runTimer0_moves (n : Nat) (s : State) :
    ∃ x p, runTimer0 n s = { s with tmr0 := x, prescaler := p } ∧
      (s.params.timer0Sketch = false → x = s.tmr0) ∧
      (s.params.timer0Sketch = false ∨ s.psa = true → p = s.prescaler) := by
  unfold runTimer0
  cases hsketch : s.params.timer0Sketch with
  | false => exact ⟨s.tmr0, s.prescaler, rfl, fun _ => rfl, fun _ => rfl⟩
  | true =>
    simp only [if_true, countTimer0]
    cases hpsa : s.psa with
    | false => exact ⟨_, _, rfl, by simp, by simp⟩
    | true => exact ⟨_, s.prescaler, rfl, by simp, fun _ => rfl⟩

/-- The watchdog moves its count only with WDTE, and the prescaler only when it also has it. -/
theorem runWatchdog_moves (s : State) :
    ∃ c p, runWatchdog s = { s with wdt := c, prescaler := p } ∧
      (s.params.wdte = false → c = s.wdt) ∧
      (s.params.wdte = false ∨ s.psa = false → p = s.prescaler) := by
  unfold runWatchdog
  cases hwdte : s.params.wdte with
  | false => exact ⟨s.wdt, s.prescaler, rfl, fun _ => rfl, fun _ => rfl⟩
  | true =>
    simp only [if_true, countWatchdog]
    cases hpsa : s.psa with
    | true => exact ⟨_, _, rfl, by simp, by simp⟩
    | false => exact ⟨_, s.prescaler, rfl, by simp, fun _ => rfl⟩

/-- Settles O5: the step's instruction is what the decoder gives, which is well-formed, and of the two
devices only the one that has the prescaler moves it. -/
theorem stepRunsDecodedInstruction : Obligations.StepRunsDecodedInstruction := by
  refine ⟨fun s word i hreset hawake hfetch hdecode => ⟨?wellFormed, ?step⟩, fun n t => ?devices⟩
  case wellFormed => exact (decodeThenEncode word i hdecode).1
  case step =>
    rw [step_of_decode hreset hawake hfetch hdecode]
    rfl
  case devices =>
    obtain ⟨x, p, htimer, htmr0, hprescaler⟩ := runTimer0_moves n t
    obtain ⟨c, q, hwatchdog, hwdt, hprescaler'⟩ := runWatchdog_moves (runTimer0 n t)
    rw [htimer] at hwatchdog hwdt hprescaler'
    refine ⟨x, q, c, by rw [runDevices, htimer, hwatchdog], htmr0, hwdt, fun hpsa hsketch => ?_,
      fun hpsa hwdte => ?_⟩
    · rw [hprescaler' (.inr hpsa), hprescaler (.inl hsketch)]
    · rw [hprescaler' (.inl hwdte), hprescaler (.inr hpsa)]

end Sys2Proof.Machine
end

section
/-!
PROOFS. Resets and sleep (spec 60_exceptions.md R160 to R163, R178, 70_reset_and_hazards.md R183 to
R190): what the causes at one boundary leave, alone and together, and what a core asleep does.
-/

namespace Sys2Proof.Machine

/-! ### The causes at a boundary -/

section Causes

variable {s : State} {ks : List ResetKind} {rest : List (List ResetKind)} {k : ResetKind}

/-- Causes that are all enabled all happen. -/
theorem resetsNow_of_enabled (hevents : s.events = ks :: rest) (h : ∀ k ∈ ks, k.Enabled s) :
    resetsNow s = ks := by
  rw [resetsNow, hevents]
  exact List.filter_eq_self.mpr fun k hk => (resetEnabled_iff k s).mpr (h k hk)

theorem mem_resetsNow_iff (hevents : s.events = ks :: rest) :
    k ∈ resetsNow s ↔ k ∈ ks ∧ k.Enabled s := by
  simp only [resetsNow, hevents, List.headD_cons, List.mem_filter, resetEnabled_iff]

/-- A step whose boundary has enabled causes, power-on not among them. -/
theorem stepsTo_restarted (hevents : s.events = ks :: rest) (hne : ks ≠ [])
    (hpower : .powerOn ∉ ks) (h : ∀ k ∈ ks, k.Enabled s) :
    StepsTo s fun t => Restarted s t ∧ t.status = ks.foldl resetStatus s.status := by
  have hnow := resetsNow_of_enabled hevents h
  refine ⟨_, step_of_resets (hnow ▸ hne), ?_⟩
  rw [hnow]
  exact takeResets_restarted ks s hpower

end Causes

/-! ### STATUS after coinciding causes -/

/-- Each cause applies its row of R189 in turn: the last one sets the wake-up flags, a watchdog
time-out clears TO for good, and the other bits stay. -/
theorem foldl_resetStatus_getLsbD {ks : List ResetKind} (st : Byte) (i : Nat) (hi : i < 8)
    (hne : ks ≠ []) (hpower : .powerOn ∉ ks) :
    (ks.foldl resetStatus st).getLsbD i =
      if i = 7 then decide (ks.getLast? = some .pinChange)
      else if i = 6 then decide (ks.getLast? = some .comparatorChange)
      else if i = 4 then st.getLsbD 4 && decide (.watchdog ∉ ks)
      else st.getLsbD i := by
  induction ks generalizing st with
  | nil => contradiction
  | cons k ks ih =>
    have hk : k ≠ .powerOn := fun hk => hpower (hk ▸ List.mem_cons_self)
    have hks : .powerOn ∉ ks := fun hks => hpower (List.mem_cons_of_mem _ hks)
    rw [List.foldl_cons]
    by_cases hnil : ks = []
    · subst hnil
      rw [List.foldl_nil, resetStatus_getLsbD st k i hi hk]
      simp [eq_comm]
    · rw [ih (resetStatus st k) hnil hks]
      have hlast : (k :: ks).getLast? = ks.getLast? := List.getLast?_cons_of_ne_nil hnil
      rw [hlast, resetStatus_getLsbD st k 4 (by decide) hk, resetStatus_getLsbD st k i hi hk]
      grind

/-- Settles O59: the causes all happen, so the registers are those of one reset and STATUS has each
cause's row in turn. -/
theorem coincidingResetsAreAllApplied : Obligations.CoincidingResetsAreAllApplied := by
  intro s ks rest hevents hne hpower henabled
  obtain ⟨t, hstep, hrestarted, hstatus⟩ := stepsTo_restarted hevents hne hpower henabled
  refine ⟨t, hstep, hrestarted, fun i hi => ?_⟩
  rw [hstatus, foldl_resetStatus_getLsbD s.status i hi hne hpower]

/-! ### One cause alone -/

/-- A lone cause leaves its own row of R189. -/
theorem stepsTo_of_lone_cause {s : State} {k : ResetKind} {rest : List (List ResetKind)}
    (hevents : s.events = [k] :: rest) (hpower : k ≠ .powerOn) (henabled : k.Enabled s) :
    StepsTo s fun t => Restarted s t ∧ ∀ i, i < 8 →
      t.status.getLsbD i =
        if i = 7 then decide (k = .pinChange) else if i = 6 then decide (k = .comparatorChange)
        else if i = 4 then s.status.getLsbD 4 && decide (k ≠ .watchdog) else s.status.getLsbD i := by
  obtain ⟨t, hstep, hrestarted, hstatus⟩ := stepsTo_restarted hevents (List.cons_ne_nil _ _)
    (by simpa using hpower.symm) (by simpa using henabled)
  refine ⟨t, hstep, hrestarted, fun i hi => ?_⟩
  rw [hstatus, List.foldl_cons, List.foldl_nil, resetStatus_getLsbD s.status k i hi hpower]

/-- Settles O53: the two causes' rows of R189, read off `stepsTo_of_lone_cause`. -/
theorem mclrAndWatchdogResets : Obligations.MclrAndWatchdogResets := by
  intro s rest
  refine ⟨fun hevents hmclre => ?mclr, fun hevents hwdte => ?watchdog⟩
  case mclr =>
    obtain ⟨t, hstep, hrestarted, hstatus⟩ := stepsTo_of_lone_cause hevents (by decide) hmclre
    refine ⟨t, hstep, hrestarted, fun i hi => (hstatus i hi).trans ?_⟩
    grind
  case watchdog =>
    obtain ⟨t, hstep, hrestarted, hstatus⟩ := stepsTo_of_lone_cause hevents (by decide) hwdte
    refine ⟨t, hstep, hrestarted, fun i hi => (hstatus i hi).trans ?_⟩
    grind

/-- Settles O54: likewise the two wake-ups. -/
theorem wakeUpResets : Obligations.WakeUpResets := by
  intro s rest hasleep
  refine ⟨fun hevents hgpwu => ?pinChange, fun hevents hcomparator hcwu => ?comparatorChange⟩
  case pinChange =>
    obtain ⟨t, hstep, hrestarted, hstatus⟩ :=
      stepsTo_of_lone_cause hevents (by decide) ⟨hasleep, hgpwu⟩
    refine ⟨t, hstep, hrestarted, fun i hi => (hstatus i hi).trans ?_⟩
    grind
  case comparatorChange =>
    obtain ⟨t, hstep, hrestarted, hstatus⟩ :=
      stepsTo_of_lone_cause hevents (by decide) ⟨hasleep, hcomparator, hcwu⟩
    refine ⟨t, hstep, hrestarted, fun i hi => (hstatus i hi).trans ?_⟩
    grind

/-! ### Power-on -/

/-- A step whose boundary has a power-on. -/
theorem step_of_powerOn {s : State} (h : .powerOn ∈ resetsNow s) :
    step s =
      .next (State.powerOn s.params s.prog s.events.tail (s.now + 1) (unknownsAt s.now)) := by
  rw [step_of_resets (List.ne_nil_of_mem h), takeResets_powerOn _ _ h]
  rfl

/-- Settles O52: a power-on among the causes always happens and dominates. -/
theorem powerOnResetValues : Obligations.PowerOnResetValues := by
  refine ⟨fun s ks rest hevents hpower => ?_, powerOn_poweredOn _ _ _ _ _⟩
  have hnow : .powerOn ∈ resetsNow s := (mem_resetsNow_iff hevents).mpr ⟨hpower, trivial⟩
  refine ⟨_, step_of_powerOn hnow, powerOn_poweredOn _ _ _ _ _, rfl, rfl, ?_⟩
  change s.events.tail = rest
  rw [hevents, List.tail_cons]

/-! ### Causes that are not enabled -/

/-- Of the events a step sees only the causes that happen and the later boundaries. -/
theorem step_congr_events {s : State} {events : List (List ResetKind)}
    (hnow : resetsNow { s with events := events } = resetsNow s)
    (htail : events.tail = s.events.tail) : step { s with events := events } = step s := by
  have hpass : passBoundary { s with events := events } = passBoundary s := by
    simp only [passBoundary, htail]
  rw [step, step, hnow, hpass]

/-- Taking a cause that is not enabled off the boundary leaves the causes that happen. -/
theorem resetsNow_filter_ne {s : State} {k : ResetKind} {ks : List ResetKind}
    {rest : List (List ResetKind)} (hevents : s.events = ks :: rest)
    (hdisabled : resetEnabled k s = false) :
    resetsNow { s with events := ks.filter (fun j => decide (j ≠ k)) :: rest } = resetsNow s := by
  have henabled : ∀ j, resetEnabled j s = true → j ≠ k := by
    rintro j hj rfl
    simp [hj] at hdisabled
  calc resetsNow { s with events := ks.filter (fun j => decide (j ≠ k)) :: rest }
    _ = (ks.filter fun j => decide (j ≠ k)).filter fun j => resetEnabled j s := rfl
    _ = ks.filter fun j => resetEnabled j s := by
      rw [List.filter_filter]
      refine List.filter_congr fun j _ => ?_
      cases hj : resetEnabled j s with
      | false => rfl
      | true => simp [henabled j hj]
    _ = resetsNow s := by rw [resetsNow, hevents, List.headD_cons]

/-- Settles O55: in each case the table of R160 does not enable the cause. -/
theorem disabledResetsDoNothing : Obligations.DisabledResetsDoNothing := by
  intro s k ks rest hevents hcause
  have hdisabled : ¬ k.Enabled s := by
    unfold ResetKind.Enabled
    rcases hcause with ⟨rfl, h⟩ | ⟨rfl, h⟩ | ⟨rfl, h⟩ | ⟨rfl, h⟩ <;> grind
  rw [← resetEnabled_iff, Bool.not_eq_true] at hdisabled
  exact (step_congr_events (resetsNow_filter_ne hevents hdisabled) (by rw [hevents]; rfl)).symm

/-! ### Sleep -/

/-- Settles O56: a cycle asleep is one of the watchdog's. -/
theorem sleepingCoreExecutesNothing : Obligations.SleepingCoreExecutesNothing := by
  intro s hasleep hreset
  refine ⟨_, step_of_asleep hreset hasleep, ?_⟩
  obtain ⟨c, p, hwait, _, hprescaler⟩ := runWatchdog_moves (spend 1 (passBoundary s))
  rw [waitAsleep, hwait]
  exact ⟨rfl, fun hpsa => hprescaler (.inr hpsa)⟩

/-- With no source that can wake the core nothing happens at any boundary. -/
theorem resetsNow_of_noWakeUp {s : State} (h : s.NoWakeUp) : resetsNow s = [] := by
  obtain ⟨hwdte, hmclre, hgpwu, hcwu, hpower⟩ := h
  refine List.filter_eq_nil_iff.mpr fun k hk => ?_
  cases k with
  | powerOn =>
    cases hevents : s.events with
    | nil => simp [hevents] at hk
    | cons ks rest =>
      rw [hevents] at hk hpower
      exact absurd hk (hpower ks List.mem_cons_self)
  | mclr => simp [resetEnabled, hmclre]
  | watchdog => simp [resetEnabled, hwdte]
  | pinChange => simp [resetEnabled, hgpwu]
  | comparatorChange => simpa [resetEnabled] using fun _ => hcwu

/-- One cycle of a sleep that nothing ends. -/
theorem step_of_noWakeUp {s : State} (hasleep : s.sleeping = true) (h : s.NoWakeUp) :
    step s = .next { s with events := s.events.tail, now := s.now + 1 } := by
  have hwdte : s.params.wdte = false := h.1
  rw [step_of_asleep (resetsNow_of_noWakeUp h) hasleep, waitAsleep, runWatchdog]
  exact congrArg _ (if_neg (by simp [hwdte]))

theorem noWakeUp_of_events_tail {s : State} (h : s.NoWakeUp) (n : Nat) :
    State.NoWakeUp { s with events := s.events.tail, now := n } := by
  obtain ⟨hwdte, hmclre, hgpwu, hcwu, hpower⟩ := h
  exact ⟨hwdte, hmclre, hgpwu, hcwu, fun ks hks => hpower ks (List.mem_of_mem_tail hks)⟩

/-- Settles O57: by induction on the steps, each of them `step_of_noWakeUp`. -/
theorem sleepsForeverWithoutWakeUp : Obligations.SleepsForeverWithoutWakeUp := by
  intro k
  induction k with
  | zero => exact fun s _ _ => rfl
  | succ k ih =>
    intro s hasleep h
    have hrest := ih { s with events := s.events.tail, now := s.now + 1 } hasleep
      (noWakeUp_of_events_tail h _)
    rw [run_succ_of_step_next (step_of_noWakeUp hasleep h), hrest]
    simp only [List.drop_tail, Nat.add_assoc, Nat.add_comm 1 k]

/-- Every reset wakes the core and goes to the reset entry point. -/
theorem takeResets_awake (ks : List ResetKind) (s : State) :
    (takeResets ks s).sleeping = false ∧ (takeResets ks s).pc = 0x1FF#9 := by
  unfold takeResets
  split <;> exact ⟨rfl, rfl⟩

/-- An instruction that puts the core to sleep is SLEEP. -/
theorem eq_sleep_of_exec {i : Instr} {s t : State} (hexec : exec i s = .next t)
    (hawake : s.sleeping = false) (hasleep : t.sleeping = true) : i = .sleep := by
  obtain ⟨-, -, -, -, hsleeping, -⟩ := registersHaveTheirWriters i s t hexec
  by_contra hi
  rw [hsleeping hi, hawake] at hasleep
  cases hasleep

/-- Settles O58: of the three kinds of step, a reset wakes the core, and an awake core is put to sleep
only by the instruction it ran, whose word is then 003h. -/
theorem onlySleepStopsTheCore : Obligations.OnlySleepStopsTheCore := by
  intro s t hstep
  rcases step_cases hstep with ⟨hreset, rfl⟩ | ⟨hreset, hs, rfl⟩ |
    ⟨hreset, hawake, word, i, u, hfetch, hdecode, hexec, hres, rfl⟩
  · obtain ⟨hawake, hpc⟩ := takeResets_awake (resetsNow s) (passBoundary s)
    exact ⟨fun _ => ⟨hawake, hpc⟩, fun _ hasleep => by simp [hawake] at hasleep⟩
  · exact ⟨absurd hreset, fun hawake => by simp [hs] at hawake⟩
  · refine ⟨absurd hreset, fun _ hasleep => ?_⟩
    obtain ⟨x, p, c, hdevices⟩ := runDevices_frame (u.now - s.now) u
    rw [hdevices] at hasleep
    obtain rfl := eq_sleep_of_exec hexec hawake hasleep
    rw [hfetch, ← (decodeThenEncode word .sleep hdecode).2]
    rfl

end Sys2Proof.Machine
end

section
/-!
PROOFS. What every step keeps (spec 10_state.md R39, R45, 20_memory.md R64, 93_implementation_defined.md
U4, U6, U7): the program and the parameters, the reserved STATUS bit, the invariant of Safety.lean, and
that a machine whose image is all instructions stops only at a reserved use.
-/

namespace Sys2Proof.Machine

/-! ### The program image and the parameters -/

theorem takeResets_prog_params (ks : List ResetKind) (s : State) :
    (takeResets ks s).prog = s.prog ∧ (takeResets ks s).params = s.params := by
  unfold takeResets
  split <;> exact ⟨rfl, rfl⟩

/-- Settles O8: a reset, a cycle asleep, an instruction and the devices all leave both alone. -/
theorem programMemoryIsFixed : Obligations.ProgramMemoryIsFixed := by
  intro s t hstep
  rcases step_cases hstep with ⟨-, rfl⟩ | ⟨-, -, rfl⟩ |
    ⟨-, -, word, i, u, -, -, hexec, -, rfl⟩
  · exact takeResets_prog_params _ _
  · obtain ⟨c, p, hwait⟩ := runWatchdog_frame (spend 1 (passBoundary s))
    rw [waitAsleep, hwait]
    exact ⟨rfl, rfl⟩
  · obtain ⟨x, p, c, hdevices⟩ := runDevices_frame (u.now - s.now) u
    obtain ⟨-, -, -, -, -, hprog, hparams, -⟩ := registersHaveTheirWriters i _ u hexec
    rw [hdevices]
    exact ⟨hprog, hparams⟩

/-! ### The reserved STATUS bit -/

/-- No reset sets bit 5. -/
theorem takeResets_bit5 (ks : List ResetKind) {s : State} (h : s.status.getLsbD 5 = false) :
    (takeResets ks (passBoundary s)).status.getLsbD 5 = false := by
  by_cases hpower : .powerOn ∈ ks
  · rw [takeResets_powerOn ks _ hpower]
    exact (powerOn_poweredOn _ _ _ _ _).reserved
  · rw [(takeResets_restarted ks s hpower).2]
    by_cases hne : ks = []
    · subst hne
      exact h
    · rw [foldl_resetStatus_getLsbD s.status 5 (by decide) hne hpower]
      exact h

theorem step_bit5 {s t : State} (h5 : s.status.getLsbD 5 = false) (hstep : step s = .next t) :
    t.status.getLsbD 5 = false := by
  rcases step_cases hstep with ⟨-, rfl⟩ | ⟨-, -, rfl⟩ |
    ⟨-, -, word, i, u, -, -, -, hres, rfl⟩
  · exact takeResets_bit5 _ h5
  · obtain ⟨c, p, hwait⟩ := runWatchdog_frame (spend 1 (passBoundary s))
    rw [waitAsleep, hwait]
    exact h5
  · obtain ⟨x, p, c, hdevices⟩ := runDevices_frame (u.now - s.now) u
    rw [hdevices]
    exact reservedUse_none_bit5 hres h5

/-- BSF STATUS, 5 is a write that sets the reserved bit. -/
theorem reservedUse_bsf_status {s : State} (h5 : s.status.getLsbD 5 = false) :
    reservedUse (.bsf 3#5 5#3) s
        (storeResult 3#5 .f (putBit 5 true (readOperand 3#5 s)) .nothing s) =
      some (.reservedStatusBit 5) := by
  have hstatus := (storeResult_byteResult 3#5 .f (putBit 5 true (readOperand 3#5 s)) .nothing
    s).statusAfter 5 (by decide)
  rw [nothing_bits, putBit_getLsbD _ _ _ _ (by decide)] at hstatus
  rw [reservedUse_eq, if_neg (by simp [Instr.counts])]
  exact if_pos ⟨h5, hstatus⟩

/-- Settles O60: the step refuses what `reservedUse_eq` lists, the three words are such uses, and no
step sets bit 5. -/
theorem reservedUsesAreRefused : Obligations.ReservedUsesAreRefused := by
  refine ⟨fun s t word i hreset hawake hfetch hdecode hexec => ?refusals,
    fun s hreset hawake => ⟨?count, ?bsf⟩, fun s t => step_bit5⟩
  case refusals =>
    have hres := reservedUse_eq i (advancePc (passBoundary s)) t
    rw [step_of_decode hreset hawake hfetch hdecode]
    split
    case isTrue hcount => exact runInstr_of_reserved hexec (hres.trans (if_pos hcount))
    case isFalse hcount =>
      have hres := hres.trans (if_neg hcount)
      split
      case isTrue hbit5 => exact runInstr_of_reserved hexec (hres.trans (if_pos hbit5))
      case isFalse hbit5 =>
        have hres := hres.trans (if_neg hbit5)
        split
        case isTrue hbit6 => exact runInstr_of_reserved hexec (hres.trans (if_pos hbit6))
        case isFalse hbit6 => exact runInstr_of_not_reserved hexec (hres.trans (if_neg hbit6))
  case count =>
    rintro (hfetch | hfetch)
    · exact (step_of_decode hreset hawake hfetch rfl).trans (runInstr_of_reserved rfl rfl)
    · exact (step_of_decode hreset hawake hfetch rfl).trans (runInstr_of_reserved rfl rfl)
  case bsf =>
    intro hfetch h5
    have hres := reservedUse_bsf_status (s := advancePc (passBoundary s)) h5
    exact (step_of_decode hreset hawake hfetch rfl).trans (runInstr_of_reserved rfl hres)

/-! ### The invariant -/

theorem powerOn_inv {p : Params} {prog : List (Nat × InstrWord)} (ev : List (List ResetKind))
    (n : Nat) (u : Unknowns) (hwords : 1 ≤ p.progWords ∧ p.progWords ≤ 512)
    (hprog : Memory.sorted 0 p.progWords prog = true) (hdepth : 1 ≤ p.stackDepth) :
    (State.powerOn p prog ev n u).Inv where
  ram := Memory.wf_ofValues u.gpr
  progWords := hwords
  prog := hprog
  stackDepth := (Stack.length_ofEntries _ _).trans (Nat.max_eq_right hdepth)
  reserved := (powerOn_poweredOn p prog ev n u).reserved
  asleep := nofun

/-- Settles O9: State.reset is a power-on state with an empty image and a stack two deep. -/
theorem resetSatisfiesInv : Obligations.ResetSatisfiesInv :=
  powerOn_inv [] 0 Unknowns.zero (by decide) rfl (by decide)

section Invariant

variable {i : Instr} {s t : State}

theorem State.Inv.one_le_stackDepth (h : s.Inv) : 1 ≤ s.params.stackDepth := by
  rw [← h.stackDepth]
  exact Nat.le_add_left 1 _

theorem takeResets_inv (ks : List ResetKind) (h : s.Inv) :
    (takeResets ks (passBoundary s)).Inv := by
  by_cases hpower : .powerOn ∈ ks
  · rw [takeResets_powerOn ks _ hpower]
    exact powerOn_inv _ _ _ h.progWords h.prog h.one_le_stackDepth
  · obtain ⟨⟨hframe, hdepth, -⟩, -⟩ := takeResets_restarted ks s hpower
    have hreserved := takeResets_bit5 ks h.reserved
    have hawake := (takeResets_awake ks (passBoundary s)).1
    rw [Nat.max_eq_right h.one_le_stackDepth] at hdepth
    generalize takeResets ks (passBoundary s) = t at *
    rw [hframe] at hawake ⊢
    exact ⟨h.ram, h.progWords, h.prog, hdepth, hreserved, nofun⟩

theorem writeDest_wf (d : Dest) (a : FileAddr) (r : Byte) (h : Memory.wf s.ram = true) :
    Memory.wf (writeDest d a r s).ram = true := by
  cases d with
  | w => exact h
  | f => exact writeFile_wf a r s h

/-- An instruction keeps the canonical form of the data memory. -/
theorem exec_wf (hexec : exec i s = .next t) (h : Memory.wf s.ram = true) :
    Memory.wf t.ram = true := by
  cases exec_form hexec with
  | store f d r u => exact writeDest_wf d _ r h
  | count f d r =>
    unfold storeCount
    split
    · exact h
    · split <;> exact writeDest_wf d _ r h
  | test c => cases c <;> exact h
  | call | goto | retlw | movlw | nop | tris | option | clrwdt | sleep => exact h

/-- An instruction keeps the stack's depth. -/
theorem exec_stack_length (hexec : exec i s = .next t) :
    t.stack.entries.length = s.stack.entries.length := by
  cases exec_form hexec with
  | store f d r u => rw [(storeResult_frame f d r s u).stack]
  | count f d r => rw [(storeCount_frame f d r s).stack]
  | test c => cases c <;> rfl
  | call => exact Stack.length_push _ _
  | retlw => exact Stack.length_pop _
  | goto | movlw | nop | tris | option | clrwdt | sleep => rfl

/-- An instruction that puts the core to sleep leaves TO = 1 and PD = 0 (R153). -/
theorem exec_asleep (hexec : exec i s = .next t) (hawake : s.sleeping = false)
    (hasleep : t.sleeping = true) :
    t.status.getLsbD 4 = true ∧ t.status.getLsbD 3 = false := by
  obtain rfl := eq_sleep_of_exec hexec hawake hasleep
  cases hexec
  exact ⟨putTimeoutPowerDown_getLsbD _ _ _ _ (by decide),
    putTimeoutPowerDown_getLsbD _ _ _ _ (by decide)⟩

/-- The step's own instruction keeps the invariant: it is not a reserved use, and SLEEP is the only
way to be asleep after it. -/
theorem exec_inv (h : s.Inv) (hawake : s.sleeping = false) (hexec : exec i s = .next t)
    (hres : reservedUse i s t = none) : t.Inv := by
  obtain ⟨-, -, -, -, -, hprog, hparams, -⟩ := registersHaveTheirWriters i s t hexec
  exact
    { ram := exec_wf hexec h.ram
      progWords := hparams ▸ h.progWords
      prog := by rw [hprog, hparams]; exact h.prog
      stackDepth := by rw [exec_stack_length hexec, hparams]; exact h.stackDepth
      reserved := reservedUse_none_bit5 hres h.reserved
      asleep := exec_asleep hexec hawake }

theorem waitAsleep_inv (h : s.Inv) : (waitAsleep s).Inv := by
  obtain ⟨c, p, hwait⟩ := runWatchdog_frame (spend 1 s)
  rw [waitAsleep, hwait]
  exact { h with }

theorem runDevices_inv (n : Nat) (h : s.Inv) : (runDevices n s).Inv := by
  obtain ⟨x, p, c, hdevices⟩ := runDevices_frame n s
  rw [hdevices]
  exact { h with }

end Invariant

/-- Settles O10: each kind of step keeps the invariant. -/
theorem stepKeepsInvariant : Obligations.StepKeepsInvariant := by
  intro s t h hstep
  rcases step_cases hstep with ⟨-, rfl⟩ | ⟨-, -, rfl⟩ |
    ⟨-, hawake, word, i, u, -, -, hexec, hres, rfl⟩
  · exact takeResets_inv _ h
  · have hpassed : (passBoundary s).Inv := { h with }
    exact waitAsleep_inv hpassed
  · have hadvanced : (advancePc (passBoundary s)).Inv := { h with }
    exact runDevices_inv _ (exec_inv hadvanced hawake hexec hres)

/-! ### A machine whose image is all instructions -/

section Covered

variable {s t : State} {i : Instr}

/-- Coverage, and the absence of reserved uses, are facts about the image and the parameters. -/
theorem State.Covered.of_step (h : s.Covered) (hstep : step s = .next t) : t.Covered := by
  obtain ⟨hprog, hparams⟩ := programMemoryIsFixed s t hstep
  unfold State.Covered
  rw [hprog, hparams]
  exact h

theorem State.AvoidsReservedUses.of_step (h : s.AvoidsReservedUses) (hstep : step s = .next t) :
    t.AvoidsReservedUses := by
  obtain ⟨hprog, hparams⟩ := programMemoryIsFixed s t hstep
  unfold State.AvoidsReservedUses
  rw [hprog, hparams]
  exact h

/-- The fetch of a covered machine gives an instruction, and it completes. -/
theorem State.Covered.exec (h : s.Covered) :
    ∃ word i t, fetch s = some word ∧ decode word = .ok i ∧
      exec i (advancePc (passBoundary s)) = .next t := by
  obtain ⟨hwords, hcovered⟩ := h
  obtain ⟨word, i, hfetch, hdecode⟩ := hcovered (fetchAddr s) (Nat.mod_lt _ hwords)
  have hwf := (decodeThenEncode word i hdecode).1
  obtain ⟨t, hexec, -⟩ := everyInstructionCompletes i (advancePc (passBoundary s)) hwf
  exact ⟨word, i, t, hfetch, hdecode, hexec⟩

/-- The uses the step can refuse. -/
theorem reservedUse_cases (i : Instr) (s t : State) :
    reservedUse i s t = none ∨ reservedUse i s t = some .countIntoPcl ∨
      reservedUse i s t = some (.reservedStatusBit 5) ∨
      (s.params.strict = true ∧ s.params.hasComparator = false ∧
        reservedUse i s t = some (.reservedStatusBit 6)) := by
  rw [reservedUse_eq]
  grind

/-- A step that does not run an instruction answers a next state. -/
theorem step_of_not_running (h : ¬ (resetsNow s = [] ∧ s.sleeping = false)) :
    ∃ t, step s = .next t := by
  by_cases hreset : resetsNow s = []
  · exact ⟨_, step_of_asleep hreset (by simpa [hreset] using h)⟩
  · exact ⟨_, step_of_resets hreset⟩

/-- A covered machine's step answers a next state, or refuses a reserved use of the instruction it
fetched. -/
theorem step_of_covered (h : s.Covered) :
    (∃ t, step s = .next t) ∨ step s = .refused .countIntoPcl ∨
      step s = .refused (.reservedStatusBit 5) ∨
      (s.params.strict = true ∧ s.params.hasComparator = false ∧
        step s = .refused (.reservedStatusBit 6)) := by
  by_cases hrunning : resetsNow s = [] ∧ s.sleeping = false
  · obtain ⟨hreset, hawake⟩ := hrunning
    obtain ⟨word, i, t, hfetch, hdecode, hexec⟩ := h.exec
    rw [step_of_decode hreset hawake hfetch hdecode]
    rcases reservedUse_cases i (advancePc (passBoundary s)) t with
      hres | hres | hres | ⟨hstrict, hcomparator, hres⟩
    · exact .inl ⟨_, runInstr_of_not_reserved hexec hres⟩
    · exact .inr (.inl (runInstr_of_reserved hexec hres))
    · exact .inr (.inr (.inl (runInstr_of_reserved hexec hres)))
    · exact .inr (.inr (.inr ⟨hstrict, hcomparator, runInstr_of_reserved hexec hres⟩))
  · exact .inl (step_of_not_running hrunning)

/-- An image without reserved uses has none of them refused. -/
theorem State.AvoidsReservedUses.reservedUse_eq_none {word : InstrWord} {a : Nat}
    (h : s.AvoidsReservedUses) (hword : Memory.lookup a s.prog = some word)
    (hdecode : decode word = .ok i) {u v : State} (hparams : u.params = s.params)
    (hexec : exec i u = .next v) : reservedUse i u v = none := by
  obtain ⟨hcount, hbit5, hbit6⟩ := h a word i u v hword hdecode hexec
  rw [reservedUse_eq, hparams, if_neg hcount]
  grind

theorem step_of_avoids (hcovered : s.Covered) (h : s.AvoidsReservedUses) :
    ∃ t, step s = .next t := by
  by_cases hrunning : resetsNow s = [] ∧ s.sleeping = false
  · obtain ⟨hreset, hawake⟩ := hrunning
    obtain ⟨word, i, t, hfetch, hdecode, hexec⟩ := hcovered.exec
    rw [step_of_decode hreset hawake hfetch hdecode]
    exact ⟨_, runInstr_of_not_reserved hexec (h.reservedUse_eq_none hfetch hdecode rfl hexec)⟩
  · exact step_of_not_running hrunning

/-- Every run of a covered machine stays covered or stops at a reserved use. -/
theorem run_of_covered (k : Nat) (h : s.Covered) :
    (∃ t, Host.Core.run core k s = .next t ∧ t.Covered) ∨
      Host.Core.run core k s = .refused .countIntoPcl ∨
      Host.Core.run core k s = .refused (.reservedStatusBit 5) ∨
      (s.params.strict = true ∧ s.params.hasComparator = false ∧
        Host.Core.run core k s = .refused (.reservedStatusBit 6)) := by
  induction k generalizing s with
  | zero => exact .inl ⟨s, rfl, h⟩
  | succ k ih =>
    rcases step_of_covered h with ⟨t, hstep⟩ | hstep | hstep | ⟨hstrict, hcomparator, hstep⟩
    · have hparams := (programMemoryIsFixed s t hstep).2
      rw [run_succ_of_step_next hstep, ← hparams]
      exact ih (h.of_step hstep)
    · exact .inr (.inl (run_succ_of_step_refused hstep k))
    · exact .inr (.inr (.inl (run_succ_of_step_refused hstep k)))
    · exact .inr (.inr (.inr ⟨hstrict, hcomparator, run_succ_of_step_refused hstep k⟩))

/-- Without reserved uses it never stops. -/
theorem run_of_avoids (k : Nat) (h : s.Covered) (havoids : s.AvoidsReservedUses) :
    ∃ t, Host.Core.run core k s = .next t ∧ t.Covered := by
  induction k generalizing s with
  | zero => exact ⟨s, rfl, h⟩
  | succ k ih =>
    obtain ⟨t, hstep⟩ := step_of_avoids h havoids
    rw [run_succ_of_step_next hstep]
    exact ih (h.of_step hstep) (havoids.of_step hstep)

end Covered

/-- Settles O7: by induction on the number of steps, each of which keeps the image. -/
theorem coveredProgramStopsOnlyAtReservedUse : Obligations.CoveredProgramStopsOnlyAtReservedUse :=
  fun k _ h => ⟨run_of_covered k h, run_of_avoids k h⟩

end Sys2Proof.Machine
end

section
/-!
PROOFS. The byte-oriented and bit-oriented instructions (spec 40_byte_oriented.md, 41_bit_oriented.md):
each is one `storeResult` or `storeCount`, so what remains of it is its result and its flags in numbers.
-/

namespace Sys2Proof.Machine

/-! ### Flags in numbers (R114) -/

section Flags

variable {b : Bool} {p : Prop} [Decidable p] (v w : Byte)

theorem nothing_bits_eq_noFlags : FlagUpdate.nothing.bits = noFlags :=
  funext nothing_bits

theorem carryFlag_bits_eq_onlyC (h : b = true ↔ p) : (carryFlag b).bits = onlyC p := by
  funext bit
  match bit with
  | 0 => simp only [FlagUpdate.bits, carryFlag, onlyC, ← h, Bool.decide_eq_true]
  | 1 | 2 | _ + 3 => rfl

theorem bits_eq_flagsCDcZ {c dc z : Prop} [Decidable c] [Decidable dc] [Decidable z]
    {x y k : Bool} (hc : x = true ↔ c) (hdc : y = true ↔ dc) (hz : k = true ↔ z) :
    FlagUpdate.bits { c := some x, dc := some y, z := some k } = flagsCDcZ c dc z := by
  funext bit
  match bit with
  | 0 => simp only [FlagUpdate.bits, flagsCDcZ, ← hc, Bool.decide_eq_true]
  | 1 => simp only [FlagUpdate.bits, flagsCDcZ, ← hdc, Bool.decide_eq_true]
  | 2 => simp only [FlagUpdate.bits, flagsCDcZ, ← hz, Bool.decide_eq_true]
  | _ + 3 => rfl

theorem low_nibble_toNat : (v.extractLsb' 0 4).toNat = v.toNat % 16 := by
  rw [BitVec.extractLsb'_toNat, Nat.shiftRight_zero]

/-- The carry out of bit `n` of a sum is bit `n` of the sum one bit wider. -/
theorem carry_out_iff {n : Nat} (x y : BitVec n) :
    (x.setWidth (n + 1) + y.setWidth (n + 1)).getLsbD n = true ↔ 2 ^ n ≤ x.toNat + y.toNat := by
  have hx := x.isLt
  have hy := y.isLt
  have hsum : x.toNat + y.toNat < 2 ^ (n + 1) := by omega
  rw [BitVec.getLsbD, BitVec.toNat_add, BitVec.toNat_setWidth_of_le (by omega),
    BitVec.toNat_setWidth_of_le (by omega), Nat.mod_eq_of_lt hsum,
    Nat.testBit_eq_decide_div_mod_eq, decide_eq_true_iff]
  have hquotient : (x.toNat + y.toNat) / 2 ^ n < 2 := Nat.div_lt_of_lt_mul (by omega)
  have hle : 1 ≤ (x.toNat + y.toNat) / 2 ^ n ↔ 1 * 2 ^ n ≤ x.toNat + y.toNat :=
    Nat.le_div_iff_mul_le (Nat.two_pow_pos n)
  rw [Nat.one_mul] at hle
  rw [Nat.mod_eq_of_lt hquotient, ← hle]
  exact ⟨Eq.ge, Nat.le_antisymm (Nat.le_of_lt_succ hquotient)⟩

/-- C, DC and Z of a sum (R114). -/
theorem addFlags_bits_eq :
    (addFlags v w).bits = flagsCDcZ (255 < v.toNat + w.toNat)
      (15 < v.toNat % 16 + w.toNat % 16) ((v.toNat + w.toNat) % 256 = 0) := by
  refine bits_eq_flagsCDcZ (carry_out_iff v w) ?_ ?_
  · rw [carry_out_iff, low_nibble_toNat, low_nibble_toNat]
    rfl
  · rw [beq_iff_eq, ← BitVec.toNat_inj, BitVec.toNat_add]
    rfl

/-- C, DC and Z of a difference: C and DC are inverted borrows (R114, R133). -/
theorem subFlags_bits_eq :
    (subFlags v w).bits = flagsCDcZ (w.toNat ≤ v.toNat)
      (w.toNat % 16 ≤ v.toNat % 16) (v.toNat = w.toNat) := by
  refine bits_eq_flagsCDcZ ?_ ?_ ?_
  · rw [decide_eq_true_iff, BitVec.le_def]
  · rw [decide_eq_true_iff, BitVec.le_def, low_nibble_toNat, low_nibble_toNat]
  · rw [beq_iff_eq, BitVec.sub_eq_iff_eq_add, BitVec.zero_add, BitVec.toNat_inj]

end Flags

/-! ### Results in numbers -/

section Results

variable (v w : Byte)

theorem add_eq_ofNat : v + w = BitVec.ofNat 8 (v.toNat + w.toNat) := by
  rw [BitVec.ofNat_add, BitVec.ofNat_toNat, BitVec.ofNat_toNat, BitVec.setWidth_eq, BitVec.setWidth_eq]

theorem sub_eq_ofNat : v - w = BitVec.ofNat 8 (v.toNat + 256 - w.toNat) := by
  apply BitVec.eq_of_toNat_eq
  rw [BitVec.toNat_sub, BitVec.toNat_ofNat]
  congr 1
  omega

theorem not_eq_ofNat : ~~~v = BitVec.ofNat 8 (255 - v.toNat) := by
  apply BitVec.eq_of_toNat_eq
  rw [BitVec.toNat_not, BitVec.toNat_ofNat]
  omega

theorem carry_toNat (s : State) : s.carry.toNat = s.status.toNat % 2 := by
  rw [State.carry, BitVec.getLsbD, Nat.toNat_testBit, Nat.pow_zero, Nat.div_one]

theorem bit7_iff : v.getLsbD 7 = true ↔ 128 ≤ v.toNat := by
  have hv := v.isLt
  rw [getLsbD_eq_true_iff]
  omega

theorem bit0_iff : v.getLsbD 0 = true ↔ v.toNat % 2 = 1 := by
  rw [getLsbD_eq_true_iff, Nat.pow_zero, Nat.div_one]

theorem rotateLeft_eq_ofNat (s : State) :
    rotateLeft v s.carry = BitVec.ofNat 8 (2 * v.toNat + s.status.toNat % 2) := by
  apply BitVec.eq_of_toNat_eq
  rw [rotateLeft_toNat, carry_toNat, BitVec.toNat_ofNat]

theorem rotateRight_eq_ofNat (s : State) :
    rotateRight v s.carry = BitVec.ofNat 8 (v.toNat / 2 + 128 * (s.status.toNat % 2)) := by
  apply BitVec.eq_of_toNat_eq
  have hv := v.isLt
  rw [rotateRight_toNat, carry_toNat, BitVec.toNat_ofNat]
  omega

theorem swapNibbles_eq_ofNat :
    swapNibbles v = BitVec.ofNat 8 (v.toNat % 16 * 16 + v.toNat / 16) := by
  apply BitVec.eq_of_toNat_eq
  have hv := v.isLt
  rw [swapNibbles_toNat, BitVec.toNat_ofNat]
  omega

theorem not_eq_zero_iff : ~~~v = 0#8 ↔ v.toNat = 255 := by
  rw [← BitVec.toNat_inj, BitVec.toNat_not]
  have hv := v.isLt
  simp only [BitVec.toNat_ofNat]
  omega

theorem dec_eq_zero_iff : v - 1#8 = 0#8 ↔ v.toNat = 1 := by
  rw [← eq_one_iff_dec_eq_zero, ← BitVec.toNat_inj]
  rfl

theorem inc_eq_zero_iff : v + 1#8 = 0#8 ↔ v.toNat = 255 := by
  rw [← eq_ff_iff_inc_eq_zero, ← BitVec.toNat_inj]
  rfl

end Results

/-! ### Instructions that store a result -/

section Stored

variable {i : Instr} {f : FileAddr} {d : Dest} {s : State} {r r' : Byte} {u : FlagUpdate}
  {flag : Nat → Option Bool}

/-- An instruction that stores a result with its flags, both under any other name. -/
theorem completes_of_storeResult (hexec : exec i s = .next (storeResult f d r u s)) (hr : r = r')
    (hflags : u.bits = flag) : Completes i s fun t => ByteResult s t f d r' flag :=
  ⟨_, hexec, hr ▸ hflags ▸ storeResult_byteResult f d r u s⟩

/-- An instruction that stores a count, but not in PCL. -/
theorem completes_of_storeCount {p : Prop} [Decidable p]
    (hexec : exec i s = .next (storeCount f d r s)) (hpcl : d = .f → effAddr f s ≠ 2#5)
    (hr : r = r') (hzero : r = 0#8 ↔ p) :
    Completes i s fun t => ∃ u, ByteResult s u f d r' noFlags ∧ t = if p then skipped u else u := by
  obtain ⟨u, hu, hstore⟩ := storeCount_spec f d r s fun h => hpcl h.1 h.2
  refine ⟨_, hexec, u, hr ▸ hu, ?_⟩
  simp only [hstore, hzero]

end Stored

/-- Settles O11: one `storeResult` of the sum and its carries. -/
theorem addwfAddsWToFile : Obligations.AddwfAddsWToFile :=
  fun f d s => ⟨decode_addwf d f,
    completes_of_storeResult rfl (add_eq_ofNat _ s.w) (addFlags_bits_eq _ s.w)⟩

/-- Settles O12: one `storeResult` of the difference and its inverted borrows. -/
theorem subwfSubtractsWFromFile : Obligations.SubwfSubtractsWFromFile :=
  fun f d s => ⟨decode_subwf d f,
    completes_of_storeResult rfl (sub_eq_ofNat _ s.w) (subFlags_bits_eq _ s.w)⟩

/-- Settles O13: `255 - W` is the complement of W, so no borrow is a carry out of the sum. -/
theorem subwfFlagsAreCarriesOfTheSum : Obligations.SubwfFlagsAreCarriesOfTheSum := by
  intro f s
  obtain ⟨-, t, hexec, -, hstatus⟩ := subwfSubtractsWFromFile f .w s
  have hw := s.w.isLt
  have hnot : (~~~s.w).toNat = 255 - s.w.toNat := BitVec.toNat_not
  refine ⟨t, hexec, (hstatus 0 (by decide)).trans ?_, (hstatus 1 (by decide)).trans ?_⟩
  · exact decide_eq_decide.mpr (by omega)
  · exact decide_eq_decide.mpr (by omega)

/-- Settles O14: an OR is zero iff both operands are, an exclusive OR iff they are equal. -/
theorem logicOpsWithW : Obligations.LogicOpsWithW := by
  intro f d s
  have and_zero : readOperand f s &&& s.w = 0#8 ↔ (readOperand f s &&& s.w).toNat = 0 :=
    BitVec.toNat_inj.symm
  refine ⟨⟨decode_andwf d f, ?andwf⟩, ⟨decode_iorwf d f, ?iorwf⟩, ⟨decode_xorwf d f, ?xorwf⟩⟩
  case andwf => exact completes_of_storeResult rfl rfl (zeroFlag_bits_eq_onlyZ and_zero)
  case iorwf => exact completes_of_storeResult rfl rfl (zeroFlag_bits_eq_onlyZ BitVec.or_eq_zero_iff)
  case xorwf => exact completes_of_storeResult rfl rfl (zeroFlag_bits_eq_onlyZ BitVec.xor_eq_zero_iff)

/-- Settles O15: one less is zero from 1, one more from 255. -/
theorem decfAndIncfStepByOne : Obligations.DecfAndIncfStepByOne := by
  intro f d s
  refine ⟨⟨decode_decf d f, ?decf⟩, ⟨decode_incf d f, ?incf⟩⟩
  case decf =>
    exact completes_of_storeResult rfl (sub_eq_ofNat _ 1#8)
      (zeroFlag_bits_eq_onlyZ (dec_eq_zero_iff _))
  case incf =>
    exact completes_of_storeResult rfl (add_eq_ofNat _ 1#8)
      (zeroFlag_bits_eq_onlyZ (inc_eq_zero_iff _))

/-- Settles O16: one `storeResult` of the value read. -/
theorem movfMovesFile : Obligations.MovfMovesFile :=
  fun f d _ => ⟨decode_movf d f,
    completes_of_storeResult rfl rfl (zeroFlag_bits_eq_onlyZ BitVec.toNat_inj.symm)⟩

/-- Settles O17: the complement is zero iff the operand is 255. -/
theorem comfComplementsFile : Obligations.ComfComplementsFile :=
  fun f d _ => ⟨decode_comf d f,
    completes_of_storeResult rfl (not_eq_ofNat _) (zeroFlag_bits_eq_onlyZ (not_eq_zero_iff _))⟩

/-- Settles O18: each rotate doubles or halves the operand and takes the old carry in. -/
theorem rotatesGoThroughCarry : Obligations.RotatesGoThroughCarry := by
  intro f d s
  refine ⟨⟨decode_rlf d f, ?rlf⟩, ⟨decode_rrf d f, ?rrf⟩⟩
  case rlf =>
    exact completes_of_storeResult rfl (rotateLeft_eq_ofNat _ s)
      (carryFlag_bits_eq_onlyC (bit7_iff _))
  case rrf =>
    exact completes_of_storeResult rfl (rotateRight_eq_ofNat _ s)
      (carryFlag_bits_eq_onlyC (bit0_iff _))

/-- Settles O19: one `storeResult` of the exchanged nibbles, with no flag. -/
theorem swapfExchangesNibbles : Obligations.SwapfExchangesNibbles :=
  fun f d _ => ⟨decode_swapf d f,
    completes_of_storeResult rfl (swapNibbles_eq_ofNat _) nothing_bits_eq_noFlags⟩

/-- Settles O20: both store in the register `f` names, CLRF with Z set and MOVWF with no flag. -/
theorem clrfAndMovwfStore : Obligations.ClrfAndMovwfStore := by
  intro f s
  refine ⟨⟨decode_clrf f, ?clrf⟩, ⟨decode_movwf f, ?movwf⟩⟩
  case clrf => exact completes_of_storeResult rfl rfl (zeroFlag_bits_eq_onlyZ (iff_true_intro rfl))
  case movwf => exact completes_of_storeResult rfl rfl nothing_bits_eq_noFlags

/-- Settles O21: CLRW is one `storeW` of zero, NOP one cycle. -/
theorem clrwAndNop : Obligations.ClrwAndNop :=
  fun s => ⟨⟨rfl, _, rfl, storeW_wResult_onlyZ (iff_true_intro rfl) s⟩, ⟨rfl, _, rfl, rfl⟩⟩

/-- Settles O22: both are one `storeCount`, which skips when the count is zero. -/
theorem countAndSkipIfZero : Obligations.CountAndSkipIfZero := by
  intro f d s hpcl
  refine ⟨⟨decode_decfsz d f, ?decfsz⟩, ⟨decode_incfsz d f, ?incfsz⟩⟩
  case decfsz =>
    exact completes_of_storeCount rfl hpcl (sub_eq_ofNat _ 1#8) (dec_eq_zero_iff _)
  case incfsz =>
    exact completes_of_storeCount rfl hpcl (add_eq_ofNat _ 1#8) (inc_eq_zero_iff _)

/-! ### Counts in a step -/

section CountStep

variable {i : Instr} {word : InstrWord} {f : FileAddr} {d : Dest} {r : Byte} {s t : State}

theorem runInstr_eq_refused_iff (hexec : exec i s = .next t) {e : Refusal} :
    runInstr i s = .refused e ↔ reservedUse i s t = some e := by
  cases hres : reservedUse i s t with
  | none => simp [runInstr_of_not_reserved hexec hres]
  | some e' => simp [runInstr_of_reserved hexec hres]

theorem reservedUse_eq_countIntoPcl_iff :
    reservedUse i s t = some .countIntoPcl ↔ i.counts = true ∧ i.target s = some 2#5 := by
  rw [reservedUse_eq]
  grind

/-- A count that goes neither to PCL nor to STATUS changes no STATUS bit, so it is no reserved use. -/
theorem reservedUse_storeCount (htarget : i.target s = storeTarget f d s)
    (h : ¬ (d = .f ∧ (effAddr f s = 2#5 ∨ effAddr f s = 3#5))) :
    reservedUse i s (storeCount f d r s) = none := by
  have hpcl : i.target s ≠ some 2#5 := by
    rw [htarget, ne_eq, storeTarget_eq_some_iff]
    grind
  have hstatus : storeTarget f d s ≠ some 3#5 := by
    rw [ne_eq, storeTarget_eq_some_iff]
    grind
  have hkept (bit : Nat) :=
    (storeCount_statusAfter f d r s).getLsbD_eq (bit := bit) rfl (.inl hstatus)
  rw [reservedUse_eq, hkept, hkept]
  grind

section

variable (hreset : resetsNow s = []) (hawake : s.sleeping = false) (hfetch : fetch s = some word)
  (hdecode : decode word = .ok i)
  (hexec : exec i (advancePc (passBoundary s)) =
    .next (storeCount f d r (advancePc (passBoundary s))))
  (htarget : i.target (advancePc (passBoundary s)) = storeTarget f d (advancePc (passBoundary s)))

include hreset hawake hfetch hdecode hexec htarget

theorem step_count_refused_iff (hcounts : i.counts = true) :
    step s = .refused .countIntoPcl ↔ d = .f ∧ effAddr f s = 2#5 := by
  rw [step_of_decode hreset hawake hfetch hdecode, runInstr_eq_refused_iff hexec,
    reservedUse_eq_countIntoPcl_iff, htarget, storeTarget_eq_some_iff]
  exact and_iff_right hcounts

theorem stepsTo_count {p : Prop} [Decidable p] (hzero : r = 0#8 ↔ p)
    (h : ¬ (d = .f ∧ (effAddr f s = 2#5 ∨ effAddr f s = 3#5))) :
    StepsTo s fun t => t.pc = if p then s.pc + 2#9 else s.pc + 1#9 := by
  have hres := reservedUse_storeCount (r := r) htarget h
  rw [StepsTo, step_of_decode hreset hawake hfetch hdecode, runInstr_of_not_reserved hexec hres]
  refine ⟨_, rfl, ?_⟩
  obtain ⟨x, p, c, hdevices⟩ := runDevices_frame _ (storeCount f d r (advancePc (passBoundary s)))
  have hpc := storeCount_pc r (advancePc (passBoundary s)) fun hpcl => h ⟨hpcl.1, .inl hpcl.2⟩
  rw [hdevices]
  refine hpc.trans ?_
  simp only [hzero, advancePc_pc, passBoundary_pc, BitVec.add_assoc, BitVec.reduceAdd]

end

theorem target_decfsz : (Instr.decfsz f d).target s = storeTarget f d s := by
  cases d <;> rfl

theorem target_incfsz : (Instr.incfsz f d).target s = storeTarget f d s := by
  cases d <;> rfl

end CountStep

/-- Settles O23: both are counts, whose result is zero when the operand is 1, respectively 255. -/
theorem countIntoPclIsRefused : Obligations.CountIntoPclIsRefused := by
  intro f d s hreset hawake
  refine ⟨fun hfetch => ?decfsz, fun hfetch => ?incfsz⟩
  case decfsz =>
    have hdecode := decode_decfsz d f
    have htarget : (Instr.decfsz f d).target (advancePc (passBoundary s)) = _ := target_decfsz
    exact ⟨step_count_refused_iff hreset hawake hfetch hdecode rfl htarget rfl,
      stepsTo_count hreset hawake hfetch hdecode rfl htarget (eq_one_iff_dec_eq_zero _).symm⟩
  case incfsz =>
    have hdecode := decode_incfsz d f
    have htarget : (Instr.incfsz f d).target (advancePc (passBoundary s)) = _ := target_incfsz
    exact ⟨step_count_refused_iff hreset hawake hfetch hdecode rfl htarget rfl,
      stepsTo_count hreset hawake hfetch hdecode rfl htarget (eq_ff_iff_inc_eq_zero _).symm⟩

/-! ### Single bits -/

/-- An instruction that writes the register back with one bit changed (R139, R140). -/
theorem completes_of_putBit {i : Instr} {f : FileAddr} {b : BitVec 3} {x : Bool} {s : State}
    (hexec : exec i s =
      .next (storeResult f .f (putBit b.toNat x (readOperand f s)) .nothing s)) :
    Completes i s fun t => ∃ r,
      (∀ j, j < 8 → r.getLsbD j = if j = b.toNat then x else (readOperand f s).getLsbD j) ∧
        ByteResult s t f .f r noFlags := by
  obtain ⟨t, ht, hresult⟩ := completes_of_storeResult hexec rfl nothing_bits_eq_noFlags
  exact ⟨t, ht, _, fun j hj => putBit_getLsbD _ j x _ hj, hresult⟩

/-- Settles O24: the register is written back with the bit clear. -/
theorem bcfClearsBit : Obligations.BcfClearsBit :=
  fun f b _ => ⟨decode_bcf f b, completes_of_putBit rfl⟩

/-- Settles O25: the register is written back with the bit set. -/
theorem bsfSetsBit : Obligations.BsfSetsBit :=
  fun f b _ => ⟨decode_bsf f b, completes_of_putBit rfl⟩

end Sys2Proof.Machine
end

section
/-!
PROOFS. The control instructions and the stack (spec 42_literal_control.md, 10_state.md R31, R32): what a
push, a pop, and any number of them leave in the entries, and the registers OPTION, TRIS, CLRWDT and SLEEP
write.
-/

namespace Sys2Proof.Machine

/-! ### The stack, entry by entry -/

section Stack

variable (v : ProgAddr) (k : Stack)

theorem Stack.entries_push_zero : (k.push v).entries[0]? = some v :=
  rfl

theorem Stack.entries_push_succ {i : Nat} (hi : i + 1 < k.entries.length) :
    (k.push v).entries[i + 1]? = k.entries[i]? := by
  rw [Stack.entries_push, List.getElem?_take_of_lt hi, List.getElem?_cons_succ]

theorem Stack.entries_pop_of_lt {i : Nat} (hi : i + 1 < k.entries.length) :
    k.pop.entries[i]? = k.entries[i + 1]? := by
  have htail : i < k.entries.tail.length := by
    rw [List.length_tail]
    omega
  rw [Stack.entries_pop, List.getElem?_append_left htail, List.getElem?_tail]

theorem Stack.getLast?_entries : k.entries.getLast? = some k.bottom := by
  rw [Stack.entries, List.getLast?_cons, Stack.bottom, List.getLastD_eq_getLast?]

theorem Stack.getLast?_entries_pop : k.pop.entries.getLast? = k.entries.getLast? := by
  rw [Stack.entries_pop, List.getLast?_concat, Stack.getLast?_entries]

/-- The entries after any number of pushes: the pushed addresses on top of the old entries, cut to the
depth. -/
theorem Stack.entries_pushAll (vs : List ProgAddr) (k : Stack) :
    (Stack.pushAll vs k).entries = (vs.reverse ++ k.entries).take k.entries.length := by
  induction vs generalizing k with
  | nil => exact List.take_length.symm
  | cons v vs ih =>
    rw [Stack.pushAll, ih, Stack.length_push, Stack.entries_push, List.reverse_cons,
      List.append_assoc, List.singleton_append, List.take_append, List.take_append, List.take_take,
      Nat.min_eq_left (Nat.sub_le _ _)]

/-- As many returns as there are entries at most take the entries in order. -/
theorem Stack.returns_eq_take (n : Nat) (k : Stack) (hn : n ≤ k.entries.length) :
    Stack.returns n k = k.entries.take n := by
  induction n generalizing k with
  | zero => rfl
  | succ n ih =>
    have htail : n ≤ k.entries.tail.length := by
      rw [List.length_tail]
      omega
    rw [Stack.returns, ih k.pop (by rw [Stack.length_pop]; omega), Stack.entries_pop,
      List.take_append_of_le_length htail]
    rfl

end Stack

/-- Settles O29: CALL pushes pc and loads its literal under a zero. -/
theorem callPushesReturnAddress : Obligations.CallPushesReturnAddress := by
  intro k s
  have hpc : (0#1 ++ k : ProgAddr) = BitVec.ofNat 9 k.toNat :=
    (zero_append_eq_setWidth k).trans (BitVec.ofNat_toNat 9 k).symm
  refine ⟨decode_call k, _, rfl, ?_, Stack.length_push _ _, Stack.entries_push_zero _ _,
    fun i => Stack.entries_push_succ _ _⟩
  rw [hpc]
  rfl

/-- Settles O30: RETLW pops. -/
theorem retlwReturnsToTopOfStack : Obligations.RetlwReturnsToTopOfStack :=
  fun k _ => ⟨decode_retlw k, _, rfl, rfl, rfl, Stack.length_pop _, Stack.getLast?_entries_pop _,
    fun _ => Stack.entries_pop_of_lt _⟩

/-- Settles O32: the entries after the pushes are the addresses in reverse, cut to the depth, and as many
returns read them off. -/
theorem nestedCallsReturnInOrder : Obligations.NestedCallsReturnInOrder := by
  intro vs k
  have hentries := Stack.entries_pushAll vs k
  have hlength : (Stack.pushAll vs k).entries.length = k.entries.length := by
    rw [hentries, List.length_take, List.length_append]
    omega
  refine ⟨hlength.symm, fun hfit => ?fits, fun hdeep => ?overflows⟩
  case fits =>
    rw [Stack.returns_eq_take _ _ (hlength ▸ hfit), hentries, List.take_take, Nat.min_eq_left hfit,
      List.take_left' List.length_reverse]
  case overflows =>
    rw [hentries, List.take_append_of_le_length (by rwa [List.length_reverse])]

/-! ### OPTION, TRIS, CLRWDT and SLEEP -/

/-- Settles O33: the four bits OPTION compares are those of PSA and PS. -/
theorem optionLoadsControlRegister : Obligations.OptionLoadsControlRegister := by
  intro s
  refine ⟨rfl, _, rfl, rfl, fun hlow => if_pos ?_⟩
  apply BitVec.eq_of_toNat_eq
  rw [low_nibble_toNat, low_nibble_toNat, hlow]

/-- Settles O34: TRISGPIO is the low four bits of W; `execTris` refuses every operand but 6. -/
theorem trisLoadsPortDirection : Obligations.TrisLoadsPortDirection := by
  intro s
  refine ⟨rfl, ⟨_, rfl, rfl, fun i hi => ?_⟩, fun f hf => if_neg hf⟩
  change (s.w.extractLsb' 0 4).getLsbD i = s.w.getLsbD i
  rw [BitVec.getLsbD_extractLsb', Nat.zero_add, decide_eq_true hi, Bool.true_and]

/-- Settles O35: both write TO and PD by `putTimeoutPowerDown` and clear the watchdog. -/
theorem clrwdtAndSleep : Obligations.ClrwdtAndSleep := by
  intro s
  refine ⟨⟨rfl, _, rfl, rfl, fun i hi => ?clrwdt⟩, ⟨rfl, _, rfl, rfl, fun i hi => ?sleep⟩⟩
  case clrwdt =>
    refine (putTimeoutPowerDown_getLsbD true true s.status i hi).trans ?_
    grind
  case sleep => exact putTimeoutPowerDown_getLsbD true false s.status i hi

end Sys2Proof.Machine
end

section
/-!
PROOFS. The register file (spec 20_memory.md R69 to R73, R77, R78, 10_state.md R42, R43): what a read of
each address returns, what the instruction after a write reads back, and that the data memory's canonical
form is fixed by its reads.
-/

namespace Sys2Proof.Machine

/-! ### Reads, address by address -/

section Reads

variable (s : State)

theorem timer0External_eq_false_iff :
    timer0External s = false ↔ s.option.getLsbD 5 = false ∧
      (s.params.hasComparator = true → s.cmcon0.getLsbD 4 = true) := by
  rw [timer0External, State.t0cs, State.cmpt0cs]
  grind

theorem readFile_tmr0 :
    readFile 1#5 s =
      if s.params.timer0Sketch = true ∧ s.option.getLsbD 5 = false ∧
          (s.params.hasComparator = true → s.cmcon0.getLsbD 4 = true)
        then s.tmr0 else Config.timer0Reading s.now := by
  have hread : readFile 1#5 s = readTmr0 s := rfl
  simp only [hread, readTmr0, Bool.and_eq_true, Bool.not_eq_true', timer0External_eq_false_iff]

theorem readFile_pcl : readFile 2#5 s = BitVec.ofNat 8 (s.pc.toNat % 256) := by
  apply BitVec.eq_of_toNat_eq
  have hread : readFile 2#5 s = s.pc.extractLsb' 0 8 := rfl
  rw [hread, BitVec.extractLsb'_toNat, Nat.shiftRight_zero, BitVec.toNat_ofNat]
  omega

theorem readFile_gpio_lt : (readFile 6#5 s).toNat < 16 := by
  have hread : readFile 6#5 s = 0#4 ++ pinLevels s := rfl
  rw [hread, BitVec.toNat_append, BitVec.toNat_ofNat, Nat.zero_mod, Nat.zero_shiftLeft, Nat.zero_or]
  exact (pinLevels s).isLt

/-- CMCON0 reads CMPOUT over its stored bits (R43). -/
theorem readFile_cmcon0_getLsbD (hcomparator : s.params.hasComparator = true) (i : Nat) (hi : i < 8) :
    (readFile 7#5 s).getLsbD i =
      if i = 7 then Config.comparatorOutput s.now else s.cmcon0.getLsbD i := by
  have hread : readFile 7#5 s = BitVec.ofBool (Config.comparatorOutput s.now) ++ s.cmcon0 := by
    simp only [readFile, locate, BitVec.reduceToNat, hcomparator, if_true]
  rw [hread, BitVec.getLsbD_append]
  by_cases h7 : i = 7
  · simp [h7]
  · simp [h7, show i < 7 by omega]

theorem readFile_no_comparator (hcomparator : s.params.hasComparator = false) :
    readFile 7#5 s = 0#8 := by
  simp [readFile, locate, hcomparator]

variable {s} {a : FileAddr}

theorem readFile_unimplemented (h8 : 8 ≤ a.toNat) (h16 : a.toNat < 16) : readFile a s = 0#8 := by
  rw [readFile, locate_unimplemented _ a h8 h16]

theorem readFile_gpr (h16 : 16 ≤ a.toNat) : readFile a s = Memory.read a.toNat s.ram := by
  rw [readFile, locate_gpr _ a h16]

end Reads

/-- Settles O43: the reads above, address by address. -/
theorem fileReadMap : Obligations.FileReadMap := by
  intro s
  refine ⟨rfl, readFile_tmr0 s, readFile_pcl s, rfl, readFile_fsr s, rfl, readFile_gpio_lt s,
    fun hcomparator => ⟨fun i hi => ?_, readFile_cmcon0_getLsbD s hcomparator 7 (by decide)⟩,
    readFile_no_comparator s, fun _ => readFile_unimplemented, fun _ => readFile_gpr⟩
  rw [readFile_cmcon0_getLsbD s hcomparator i (by omega), if_neg (by omega)]

/-! ### Pins -/

section Pins

variable {s : State} {i : Nat}

theorem gp2Overridden_iff :
    gp2Overridden s = true ↔ s.option.getLsbD 5 = true ∨ s.osccal.getLsbD 0 = true ∨
      (s.params.hasComparator = true ∧ s.cmcon0.getLsbD 6 = false) := by
  simp only [gp2Overridden, State.t0cs, State.fosc4, State.couten, Bool.or_eq_true, Bool.and_eq_true,
    Bool.not_eq_true', or_assoc]

/-- The pins the port drives (R42). -/
theorem pinDriven_iff :
    pinDriven s i = true ↔ s.trisgpio.getLsbD i = false ∧ i ≠ 3 ∧
      ¬ (i = 2 ∧ gp2Overridden s = true) := by
  simp only [pinDriven, Bool.and_eq_true, Bool.not_eq_true', bne_iff_ne]
  grind

theorem readFile_gpio_of_driven (hi : i < 4) (h : pinDriven s i = true) :
    (readFile 6#5 s).getLsbD i = s.gplat.getLsbD i := by
  rw [readFile_gpio_getLsbD, decide_eq_true hi, Bool.true_and, pinLevel, if_pos h]

theorem readFile_gpio_of_not_driven (hi : i < 4) (h : ¬ pinDriven s i = true) :
    (readFile 6#5 s).getLsbD i =
      if s.option.getLsbD 6 = false ∧ i ≠ 2 ∧ (Config.outsideDrives s.now).getLsbD i = false
        then true else (Config.pinLevels s.now).getLsbD i := by
  rw [readFile_gpio_getLsbD, decide_eq_true hi, Bool.true_and, pinLevel, if_neg h]
  simp only [pulledUp, State.gppu, Bool.and_eq_true, Bool.not_eq_true', bne_iff_ne, and_assoc]

theorem readFile_gpio_high (hi : 4 ≤ i) : (readFile 6#5 s).getLsbD i = false := by
  rw [readFile_gpio_getLsbD, decide_eq_false (by omega), Bool.false_and]

/-- The port does not drive a pin that is an input, GP3, or GP2 under an override (R42, R43). -/
theorem not_pinDriven_of_undriven
    (h : s.trisgpio.getLsbD i = true ∨ i = 3 ∨
      (i = 2 ∧ (s.option.getLsbD 5 = true ∨ s.osccal.getLsbD 0 = true ∨
        (s.params.hasComparator = true ∧ s.cmcon0.getLsbD 6 = false)))) :
    ¬ pinDriven s i = true := by
  rw [pinDriven_iff, gp2Overridden_iff]
  grind

end Pins

/-- Settles O46: `pinDriven` holds of exactly the pins named. -/
theorem drivenPinsReadTheLatch : Obligations.DrivenPinsReadTheLatch := by
  intro s
  refine ⟨fun i hi htris => ?low, fun htris ht0cs hfosc4 hcouten => ?gp2,
    fun i hi hundriven => ?undriven, fun i => readFile_gpio_high⟩
  case low =>
    exact readFile_gpio_of_driven (by omega) (pinDriven_iff.mpr ⟨htris, by omega, by omega⟩)
  case gp2 =>
    refine readFile_gpio_of_driven (by decide) (pinDriven_iff.mpr ⟨htris, by decide, ?_⟩)
    rw [gp2Overridden_iff]
    grind
  case undriven =>
    exact readFile_gpio_of_not_driven hi (not_pinDriven_of_undriven hundriven)

/-! ### Writes to the port -/

theorem setWidth_getLsbD_low (v : Byte) {i : Nat} (hi : i < 4) :
    (v.setWidth 4).getLsbD i = v.getLsbD i := by
  rw [BitVec.getLsbD_setWidth, decide_eq_true hi, Bool.true_and]

/-- A result stored in GPIO goes to the latch. -/
theorem gplat_of_byteResult {s t : State} {r : Byte} {flag : Nat → Option Bool}
    (h : ByteResult s t 6#5 .f r flag) {i : Nat} (hi : i < 4) :
    t.gplat.getLsbD i = r.getLsbD i := by
  obtain ⟨hwrite, -⟩ := h
  have hgplat : t.gplat = r.setWidth 4 := hwrite.gplat
  rw [hgplat, setWidth_getLsbD_low r hi]

theorem readOperand_gpio_getLsbD (s : State) {i : Nat} (hi : i < 4) :
    (readOperand 6#5 s).getLsbD i = pinLevel s i := by
  have hread : readOperand 6#5 s = readFile 6#5 s := rfl
  rw [hread, readFile_gpio_getLsbD, decide_eq_true hi, Bool.true_and]

/-- Settles O47: the latch takes the result, and the result's bits are the pins' but for the addressed one. -/
theorem portReadModifyWriteUsesPins : Obligations.PortReadModifyWriteUsesPins := by
  intro b s
  refine ⟨?bcf, ?bsf, ?movf⟩
  case bcf =>
    obtain ⟨-, t, hexec, r, hr, hresult⟩ := bcfClearsBit 6#5 b s
    refine ⟨t, hexec, fun i hi => ?_⟩
    rw [gplat_of_byteResult hresult hi, hr i (by omega), readOperand_gpio_getLsbD s hi]
  case bsf =>
    obtain ⟨-, t, hexec, r, hr, hresult⟩ := bsfSetsBit 6#5 b s
    refine ⟨t, hexec, fun i hi => ?_⟩
    rw [gplat_of_byteResult hresult hi, hr i (by omega), readOperand_gpio_getLsbD s hi]
  case movf =>
    obtain ⟨-, t, hexec, hresult⟩ := movfMovesFile 6#5 .f s
    refine ⟨t, hexec, fun i hi => ?_⟩
    rw [gplat_of_byteResult hresult hi, readOperand_gpio_getLsbD s hi]

/-! ### INDF on itself -/

/-- Settles O45: the effective address is 00h, which reads 00h and stores nothing. -/
theorem indfOnItself : Obligations.IndfOnItself := by
  intro s hfsr
  have haddr : effAddr 0#5 s = 0#5 := effAddr_zero.trans hfsr
  have hstore (r : Byte) (u : FlagUpdate) : storeResult 0#5 .f r u s = spend 1 (setFlags u s) := by
    rw [storeResult, haddr]
    rfl
  refine ⟨by rw [readOperand, haddr]; rfl, ⟨_, rfl, hstore s.w .nothing⟩,
    ⟨_, rfl, ?_⟩⟩
  rw [hstore]
  refine ⟨rfl, ?_⟩
  exact FlagUpdate.apply_getLsbD (zeroFlag 0#8) s.status 2 (by decide)

/-! ### The canonical data memory -/

section Canonical

variable {n : Nat} {lo hi : Nat} {m : List Host.Cell}

/-- A listed value is not the one an unlisted address reads as. -/
theorem Memory.lookup_ne_zero {a : Nat} (h : m.all (fun c => c.2 != 0#8) = true) :
    Memory.lookup a m ≠ some 0#8 := by
  induction m with
  | nil => nofun
  | cons c m ih =>
    rw [List.all_cons, Bool.and_eq_true, bne_iff_ne] at h
    rw [Memory.lookup]
    split
    · exact fun hc => h.1 (Option.some.inj hc)
    · exact ih h.2

/-- So the reads fix what is listed. -/
theorem Memory.lookup_eq_of_read_eq {m' : List Host.Cell} {a : Nat}
    (h : m.all (fun c => c.2 != 0#8) = true) (h' : m'.all (fun c => c.2 != 0#8) = true)
    (hread : Memory.read a m = Memory.read a m') : Memory.lookup a m = Memory.lookup a m' := by
  have hne := Memory.lookup_ne_zero (a := a) h
  have hne' := Memory.lookup_ne_zero (a := a) h'
  rw [Memory.read, Memory.read] at hread
  cases hx : Memory.lookup a m <;> cases hy : Memory.lookup a m' <;> simp_all

theorem Memory.lookup_head (c : Nat × BitVec n) (m : List (Nat × BitVec n)) :
    Memory.lookup c.1 (c :: m) = some c.2 :=
  if_pos rfl

/-- The first address of a sorted list is the least one it lists. -/
theorem Memory.head_le_of_lookup {a : Nat} {v : BitVec n} {c : Nat × BitVec n}
    {m : List (Nat × BitVec n)} (hm : Memory.sorted (c.1 + 1) hi m = true)
    (h : Memory.lookup a (c :: m) = some v) : c.1 ≤ a := by
  by_contra hlt
  have hne : a ≠ c.1 := by omega
  rw [Memory.lookup, if_neg hne, Memory.lookup_eq_none_of_lt hm (by omega)] at h
  cases h

/-- And what is listed fixes a sorted list. -/
theorem Memory.eq_of_lookup_eq {m m' : List (Nat × BitVec n)} (hm : Memory.sorted lo hi m = true)
    (hm' : Memory.sorted lo hi m' = true) (h : ∀ a, Memory.lookup a m = Memory.lookup a m') :
    m = m' := by
  induction m generalizing lo m' with
  | nil =>
    cases m' with
    | nil => rfl
    | cons c' m' => simpa [Memory.lookup] using h c'.1
  | cons c m ih =>
    cases m' with
    | nil => simpa [Memory.lookup] using h c.1
    | cons c' m' =>
      rw [Memory.sorted, Bool.and_eq_true] at hm hm'
      obtain ⟨-, hm⟩ := hm
      obtain ⟨-, hm'⟩ := hm'
      have hle := Memory.head_le_of_lookup hm ((h c'.1).trans (Memory.lookup_head c' m'))
      have hle' := Memory.head_le_of_lookup hm' ((h c.1).symm.trans (Memory.lookup_head c m))
      have haddr : c.1 = c'.1 := le_antisymm hle hle'
      have hhead : c = c' := by
        refine Prod.ext haddr (Option.some.inj ?_)
        rw [← Memory.lookup_head c m, h c.1, haddr, Memory.lookup_head]
      subst hhead
      have htail : ∀ a, Memory.lookup a m = Memory.lookup a m' := by
        intro a
        by_cases ha : a = c.1
        · rw [Memory.lookup_eq_none_of_lt hm (by omega), Memory.lookup_eq_none_of_lt hm' (by omega)]
        · have ha' := h a
          rwa [Memory.lookup, Memory.lookup, if_neg ha, if_neg ha] at ha'
      rw [ih hm hm' htail]

end Canonical

/-- Settles O48: the reads fix what is listed, and that fixes the list. -/
theorem equalReadsMeanEqualMemories : Obligations.EqualReadsMeanEqualMemories := by
  intro m m' hm hm' hread
  rw [Memory.wf, Bool.and_eq_true] at hm hm'
  exact Memory.eq_of_lookup_eq hm.1 hm'.1 fun a => Memory.lookup_eq_of_read_eq hm.2 hm'.2 (hread a)

end Sys2Proof.Machine
end

section
/-!
PROOFS. Timer0, the watchdog and the prescaler they share (spec 60_exceptions.md R166, R167, R170): the
step's closed forms count event by event, because the prescaler's eight bits wrap at a multiple of every
rate.
-/

namespace Sys2Proof.Machine

/-! ### A prescaled count -/

/-- Of `n + 1` events from the count `p`, the first passes a multiple of the rate iff the eight-bit count
it leaves is one. -/
theorem prescaled_succ {rate : Nat} (hrate : rate ∣ 256) (p n : Nat) :
    (p + (n + 1)) / rate - p / rate =
      (if (p + 1) % 256 % rate = 0 then 1 else 0) +
        (((p + 1) % 256 + n) / rate - (p + 1) % 256 / rate) := by
  obtain ⟨m, hm⟩ := hrate
  have hpos : 0 < rate := Nat.pos_of_mul_pos_right (hm ▸ (by decide : 0 < 256))
  have hwrap : p + 1 = (p + 1) % 256 + rate * (m * ((p + 1) / 256)) := by
    rw [← Nat.mul_assoc, ← hm]
    omega
  have hfirst : (p + 1) / rate = p / rate + if (p + 1) % 256 % rate = 0 then 1 else 0 := by
    rw [Nat.mod_mod_of_dvd _ ⟨m, hm⟩, Nat.succ_div]
    simp only [Nat.dvd_iff_mod_eq_zero]
  have hmono : (p + 1) % 256 / rate ≤ ((p + 1) % 256 + n) / rate := Nat.div_le_div_right (by omega)
  have hq : (p + 1) / rate = (p + 1) % 256 / rate + m * ((p + 1) / 256) := by
    conv_lhs => rw [hwrap]
    rw [Nat.add_mul_div_left _ _ hpos]
  have hqn : (p + (n + 1)) / rate = ((p + 1) % 256 + n) / rate + m * ((p + 1) / 256) := by
    have hsum : p + (n + 1) = (p + 1) % 256 + n + rate * (m * ((p + 1) / 256)) := by omega
    rw [hsum, Nat.add_mul_div_left _ _ hpos]
  omega

theorem two_pow_dvd_256 {k : Nat} (hk : k ≤ 8) : 2 ^ k ∣ 256 :=
  Nat.pow_dvd_pow 2 hk

section Prescaler

variable (s : State)

theorem timer0Rate_dvd : timer0Rate s ∣ 256 :=
  two_pow_dvd_256 (by have := s.ps.isLt; omega)

theorem watchdogRate_dvd : watchdogRate s ∣ 256 :=
  two_pow_dvd_256 (by have := s.ps.isLt; omega)

theorem succ_toNat (p : Byte) : (p + 1#8).toNat = (p.toNat + 1) % 256 :=
  BitVec.toNat_add p 1#8

end Prescaler

/-! ### Timer0 -/

section Timer0

variable {s : State}

theorem countTimer0_of_psa (n : Nat) (h : s.option.getLsbD 3 = true) :
    countTimer0 n s = { s with tmr0 := s.tmr0 + BitVec.ofNat 8 n } :=
  if_pos h

theorem countTimer0_of_not_psa (n : Nat) (h : s.option.getLsbD 3 = false) :
    countTimer0 n s =
      { s with
        prescaler := s.prescaler + BitVec.ofNat 8 n
        tmr0 := s.tmr0 + BitVec.ofNat 8
          ((s.prescaler.toNat + n) / timer0Rate s - s.prescaler.toNat / timer0Rate s) } :=
  if_neg (by rw [State.psa, h]; decide)

theorem timer0Event_of_psa (h : s.option.getLsbD 3 = true) :
    timer0Event s = { s with tmr0 := s.tmr0 + 1#8 } :=
  if_neg (by rw [h]; decide)

theorem timer0Event_of_not_psa (h : s.option.getLsbD 3 = false) :
    timer0Event s =
      { s with
        prescaler := s.prescaler + 1#8
        tmr0 := s.tmr0 + BitVec.ofNat 8
          (if (s.prescaler.toNat + 1) % 256 % timer0Rate s = 0 then 1 else 0) } := by
  rw [← succ_toNat, timer0Rate, State.ps, timer0Event, if_pos h]
  split <;> simp

theorem countTimer0_zero (s : State) : countTimer0 0 s = s := by
  unfold countTimer0
  split <;> simp

theorem add_ofNat_succ (x : Byte) (n : Nat) :
    x + BitVec.ofNat 8 (n + 1) = x + 1#8 + BitVec.ofNat 8 n := by
  rw [Nat.add_comm, BitVec.ofNat_add, BitVec.add_assoc]

/-- One more event is the first event and then the rest. -/
theorem countTimer0_succ (n : Nat) (s : State) :
    countTimer0 (n + 1) s = countTimer0 n (timer0Event s) := by
  cases hpsa : s.option.getLsbD 3 with
  | true =>
    have hrest := countTimer0_of_psa n (s := timer0Event s)
    rw [timer0Event_of_psa hpsa] at hrest ⊢
    rw [countTimer0_of_psa _ hpsa, hrest hpsa, add_ofNat_succ]
  | false =>
    have hrest := countTimer0_of_not_psa n (s := timer0Event s)
    rw [timer0Event_of_not_psa hpsa] at hrest ⊢
    rw [countTimer0_of_not_psa _ hpsa, hrest hpsa, add_ofNat_succ, succ_toNat,
      prescaled_succ (timer0Rate_dvd s), BitVec.ofNat_add, ← BitVec.add_assoc]
    rfl

/-- Settles O49: by induction on the events. -/
theorem timer0ClosedFormIsTheSketch : Obligations.Timer0ClosedFormIsTheSketch := by
  intro n
  induction n with
  | zero => exact countTimer0_zero
  | succ n ih => exact fun s => (countTimer0_succ n s).trans (ih (timer0Event s))

end Timer0

/-! ### The watchdog -/

section Watchdog

variable {s : State}

theorem countWatchdog_of_psa (n : Nat) (h : s.option.getLsbD 3 = true) :
    countWatchdog n s =
      { s with
        prescaler := s.prescaler + BitVec.ofNat 8 n
        wdt := s.wdt
          + ((s.prescaler.toNat + n) / watchdogRate s - s.prescaler.toNat / watchdogRate s) } :=
  if_pos h

theorem countWatchdog_of_not_psa (n : Nat) (h : s.option.getLsbD 3 = false) :
    countWatchdog n s = { s with wdt := s.wdt + n } :=
  if_neg (by rw [State.psa, h]; decide)

theorem watchdogPeriod_of_psa (h : s.option.getLsbD 3 = true) :
    watchdogPeriod s =
      { s with
        prescaler := s.prescaler + 1#8
        wdt := s.wdt + if (s.prescaler.toNat + 1) % 256 % watchdogRate s = 0 then 1 else 0 } := by
  rw [← succ_toNat, watchdogRate, State.ps, watchdogPeriod, if_pos h]
  split <;> rfl

theorem watchdogPeriod_of_not_psa (h : s.option.getLsbD 3 = false) :
    watchdogPeriod s = { s with wdt := s.wdt + 1 } :=
  if_neg (by rw [h]; decide)

theorem countWatchdog_zero (s : State) : countWatchdog 0 s = s := by
  unfold countWatchdog
  split <;> simp

/-- One more period is the first period and then the rest. -/
theorem countWatchdog_succ (n : Nat) (s : State) :
    countWatchdog (n + 1) s = countWatchdog n (watchdogPeriod s) := by
  cases hpsa : s.option.getLsbD 3 with
  | false =>
    have hrest := countWatchdog_of_not_psa n (s := watchdogPeriod s)
    rw [watchdogPeriod_of_not_psa hpsa] at hrest ⊢
    rw [countWatchdog_of_not_psa _ hpsa, hrest hpsa, Nat.add_comm n 1, ← Nat.add_assoc]
  | true =>
    have hrest := countWatchdog_of_psa n (s := watchdogPeriod s)
    rw [watchdogPeriod_of_psa hpsa] at hrest ⊢
    rw [countWatchdog_of_psa _ hpsa, hrest hpsa, add_ofNat_succ, succ_toNat,
      prescaled_succ (watchdogRate_dvd s), ← Nat.add_assoc]
    rfl

/-- Settles O50: by induction on the periods. -/
theorem watchdogClosedFormCountsPeriods : Obligations.WatchdogClosedFormCountsPeriods := by
  intro n
  induction n with
  | zero => exact countWatchdog_zero
  | succ n ih => exact fun s => (countWatchdog_succ n s).trans (ih (watchdogPeriod s))

end Watchdog

/-! ### Timer0 in a step, under the sketch -/

section Sketch

variable {s t u : State} {i : Instr} {word : InstrWord}

/-- A step that answers a next state has let the devices run for the instruction's cycles. -/
theorem eq_runDevices_of_step (hreset : resetsNow s = []) (hawake : s.sleeping = false)
    (hfetch : fetch s = some word) (hdecode : decode word = .ok i)
    (hexec : exec i (advancePc (passBoundary s)) = .next u) (hstep : step s = .next t) :
    t = runDevices (i.cycles (advancePc (passBoundary s))) u := by
  have hcycles := cycleCounts i _ u hexec
  rw [step_of_decode hreset hawake hfetch hdecode] at hstep
  cases hres : reservedUse i (advancePc (passBoundary s)) u with
  | some r =>
    rw [runInstr_of_reserved hexec hres] at hstep
    cases hstep
  | none =>
    rw [runInstr_of_not_reserved hexec hres, hcycles, Nat.add_sub_cancel_left] at hstep
    cases hstep
    rfl

/-- The watchdog leaves TMR0 alone, and the prescaler when it is Timer0's. -/
theorem runDevices_tmr0 (n : Nat) (s : State) :
    (runDevices n s).tmr0 = (runTimer0 n s).tmr0 ∧
      (s.option.getLsbD 3 = false → (runDevices n s).prescaler = (runTimer0 n s).prescaler) := by
  obtain ⟨c, p, hwatchdog, -, hprescaler⟩ := runWatchdog_moves (runTimer0 n s)
  obtain ⟨x, q, htimer⟩ := runTimer0_frame n s
  rw [runDevices, hwatchdog]
  refine ⟨rfl, fun hpsa => hprescaler (.inr ?_)⟩
  rw [htimer]
  exact hpsa

theorem runTimer0_of_internal (n : Nat) (hsketch : s.params.timer0Sketch = true)
    (h : timer0External s = false) : runTimer0 n s = timer0Events n s := by
  rw [runTimer0, if_pos hsketch, h, timer0ClosedFormIsTheSketch]
  rfl

theorem runTimer0_of_external (n : Nat) (hsketch : s.params.timer0Sketch = true)
    (h : timer0External s = true) :
    runTimer0 n s = timer0Events (Config.timer0Edges s.now (s.option.getLsbD 4)) s := by
  rw [runTimer0, if_pos hsketch, h, timer0ClosedFormIsTheSketch]
  rfl

theorem timer0External_iff :
    timer0External s = true ↔ s.option.getLsbD 5 = true ∨
      (s.params.hasComparator = true ∧ s.cmcon0.getLsbD 4 = false) := by
  simp only [timer0External, State.t0cs, State.cmpt0cs, Bool.or_eq_true, Bool.and_eq_true,
    Bool.not_eq_true']

end Sketch

/-- Settles O51: the step leaves what Timer0's run leaves of the state after the instruction, which is the
sketch repeated. -/
theorem timer0CountsCyclesUnderSketch : Obligations.Timer0CountsCyclesUnderSketch := by
  intro s u t word i hsketch hreset hawake hfetch hdecode hexec hstep
  obtain rfl := eq_runDevices_of_step hreset hawake hfetch hdecode hexec hstep
  obtain ⟨htmr0, hprescaler⟩ := runDevices_tmr0 (i.cycles (advancePc (passBoundary s))) u
  obtain ⟨-, -, -, -, -, -, hparams, -⟩ := registersHaveTheirWriters i _ u hexec
  have hsketch' : u.params.timer0Sketch = true := hparams ▸ hsketch
  refine ⟨fun ht0cs hcmpt0cs => ?internal, fun hexternal => ?external⟩
  case internal =>
    rw [runTimer0_of_internal _ hsketch' ((timer0External_eq_false_iff u).mpr ⟨ht0cs, hcmpt0cs⟩)]
      at htmr0 hprescaler
    refine ⟨htmr0, hprescaler, fun hpsa htarget => ?_⟩
    obtain ⟨-, hkept, -⟩ := onlyTheDestinationFileChanges i _ u hexec
    have hu : u.tmr0 = s.tmr0 := hkept htarget
    rw [htmr0, ← timer0ClosedFormIsTheSketch, countTimer0_of_psa _ hpsa, hu]
  case external =>
    rw [runTimer0_of_external _ hsketch' (timer0External_iff.mpr hexternal)] at htmr0 hprescaler
    exact ⟨htmr0, hprescaler⟩

end Sys2Proof.Machine
end

section
/-!
PROOFS. What the next instruction reads from a register just written (spec 20_memory.md R71, R77, 10_state.md
R28, R36): the write, then the devices' share of its cycles, then the advance of pc, register by register.
-/

namespace Sys2Proof.Machine

section NextRead

variable {s t : State} {a : FileAddr} {v : Byte} {n : Nat}

/-- The state the next instruction executes in, when the devices have had `n` cycles. -/
def nextState (n : Nat) (t : State) : State :=
  advancePc (runDevices n t)

/-- It differs from the state the instruction left in pc and the devices' registers only. -/
theorem nextState_eq (n : Nat) (t : State) :
    nextState n t =
      { t with
        pc := t.pc + 1#9
        tmr0 := (nextState n t).tmr0
        prescaler := (nextState n t).prescaler
        wdt := (nextState n t).wdt } := by
  obtain ⟨x, p, c, hdevices⟩ := runDevices_frame n t
  rw [nextState, hdevices]
  rfl

theorem nextState_pc : (nextState n t).pc = t.pc + 1#9 :=
  (congrArg State.pc (nextState_eq n t) :)

theorem nextState_status : (nextState n t).status = t.status :=
  (congrArg State.status (nextState_eq n t) :)

theorem nextState_fsr : (nextState n t).fsr = t.fsr :=
  (congrArg State.fsr (nextState_eq n t) :)

theorem nextState_osccal : (nextState n t).osccal = t.osccal :=
  (congrArg State.osccal (nextState_eq n t) :)

theorem nextState_gplat : (nextState n t).gplat = t.gplat :=
  (congrArg State.gplat (nextState_eq n t) :)

theorem nextState_cmcon0 : (nextState n t).cmcon0 = t.cmcon0 :=
  (congrArg State.cmcon0 (nextState_eq n t) :)

theorem nextState_ram : (nextState n t).ram = t.ram :=
  (congrArg State.ram (nextState_eq n t) :)

theorem nextState_trisgpio : (nextState n t).trisgpio = t.trisgpio :=
  (congrArg State.trisgpio (nextState_eq n t) :)

theorem nextState_option : (nextState n t).option = t.option :=
  (congrArg State.option (nextState_eq n t) :)

theorem nextState_params : (nextState n t).params = t.params :=
  (congrArg State.params (nextState_eq n t) :)

theorem nextState_now : (nextState n t).now = t.now :=
  (congrArg State.now (nextState_eq n t) :)

/-- One cycle after a write to TMR0 the count has moved, or with PSA = 0 the prescaler, which the write
cleared, has not come round: its rate is at least two. -/
theorem nextState_tmr0 (h : FileWrite s t 1#5 v) (hsketch : t.params.timer0Sketch = true)
    (hinternal : timer0External t = false) :
    (nextState 1 t).tmr0 = if s.option.getLsbD 3 = true then v + 1#8 else v := by
  have htmr0 : t.tmr0 = v := h.tmr0
  have hcount : (nextState 1 t).tmr0 = (countTimer0 1 t).tmr0 := by
    rw [timer0ClosedFormIsTheSketch, ← runTimer0_of_internal 1 hsketch hinternal]
    exact (runDevices_tmr0 1 t).1
  rw [hcount, ← h.option]
  cases hpsa : t.option.getLsbD 3 with
  | true =>
    rw [countTimer0_of_psa 1 hpsa, if_pos rfl, ← htmr0]
  | false =>
    have hcleared : t.prescaler = 0#8 :=
      h.prescaler.trans (if_pos ⟨rfl, by rw [← h.option, hpsa]⟩)
    have hrate : 1 < timer0Rate t := Nat.one_lt_two_pow (Nat.succ_ne_zero _)
    rw [countTimer0_of_not_psa 1 hpsa, hcleared, if_neg (by decide), ← htmr0]
    simp [Nat.div_eq_of_lt hrate]

theorem next_read_tmr0 (h : FileWrite s t 1#5 v) (hnow : t.now = s.now + 1) :
    readFile 1#5 (nextState 1 t) =
      if s.params.timer0Sketch = true ∧ s.option.getLsbD 5 = false ∧
          (s.params.hasComparator = true → s.cmcon0.getLsbD 4 = true)
        then if s.option.getLsbD 3 = true then v + 1#8 else v
        else Config.timer0Reading (s.now + 1) := by
  have hcmcon0 : t.cmcon0 = s.cmcon0 := h.cmcon0
  simp only [readFile_tmr0, nextState_params, nextState_option, nextState_cmcon0, nextState_now,
    h.params, h.option, hcmcon0, hnow]
  split
  case isTrue hcount =>
    obtain ⟨hsketch, hinternal⟩ := hcount
    refine nextState_tmr0 h (h.params ▸ hsketch) ((timer0External_eq_false_iff t).mpr ?_)
    rwa [h.option, h.params, hcmcon0]
  case isFalse => rfl

/-- PCL reads the address of the instruction after the one that reads it. -/
theorem next_read_pcl (h : FileWrite s t 2#5 v) : readFile 2#5 (nextState n t) = v + 1#8 := by
  have hpc : t.pc = v.setWidth 9 := h.pc
  have hv := v.isLt
  apply BitVec.eq_of_toNat_eq
  rw [readFile_pcl, nextState_pc, hpc, succ_toNat, BitVec.toNat_ofNat, BitVec.toNat_add,
    BitVec.toNat_setWidth, BitVec.toNat_ofNat]
  omega

theorem next_read_fsr (h : FileWrite s t 4#5 v) :
    (readFile 4#5 (nextState n t)).toNat = 0xE0 + v.toNat % 32 := by
  have hfsr : t.fsr = v.setWidth 5 := h.fsr
  rw [readFile_fsr, nextState_fsr, hfsr, BitVec.toNat_setWidth]

theorem next_read_osccal (h : FileWrite s t 5#5 v) : readFile 5#5 (nextState n t) = v :=
  nextState_osccal.trans h.osccal

theorem next_read_cmcon0 (h : FileWrite s t 7#5 v) (hcomparator : s.params.hasComparator = true)
    (hnow : t.now = s.now + 1) (i : Nat) (hi : i < 8) :
    (readFile 7#5 (nextState n t)).getLsbD i =
      if i = 7 then Config.comparatorOutput (s.now + 1) else v.getLsbD i := by
  have hcmcon0 : t.cmcon0 = v.setWidth 7 := h.cmcon0.trans (if_pos ⟨rfl, hcomparator⟩)
  rw [readFile_cmcon0_getLsbD _ (by rw [nextState_params, h.params, hcomparator]) i hi,
    nextState_now, nextState_cmcon0, hcmcon0, hnow]
  split
  case isTrue => rfl
  case isFalse h7 => rw [BitVec.getLsbD_setWidth, decide_eq_true (by omega), Bool.true_and]

theorem next_read_gpr (h : FileWrite s t a v) (h16 : 16 ≤ a.toNat) :
    readFile a (nextState n t) = v := by
  rw [readFile_gpr h16, nextState_ram, h.ram]
  exact if_pos ⟨rfl, h16⟩

/-- The pins after a write to GPIO are driven as before it. -/
theorem pinDriven_nextState (h : FileWrite s t 6#5 v) (i : Nat) :
    pinDriven (nextState n t) i = pinDriven s i := by
  have hosccal : t.osccal = s.osccal := h.osccal
  have hcmcon0 : t.cmcon0 = s.cmcon0 := h.cmcon0
  simp only [pinDriven, gp2Overridden, State.t0cs, State.fosc4, State.couten, nextState_trisgpio,
    nextState_option, nextState_osccal, nextState_cmcon0, nextState_params, h.trisgpio, h.option,
    hosccal, hcmcon0, h.params]

theorem next_read_gpio_of_driven (h : FileWrite s t 6#5 v) {i : Nat} (hi : i < 4)
    (hdriven : pinDriven s i = true) : (readFile 6#5 (nextState n t)).getLsbD i = v.getLsbD i := by
  have hgplat : t.gplat = v.setWidth 4 := h.gplat
  rw [readFile_gpio_of_driven hi (by rw [pinDriven_nextState h, hdriven]), nextState_gplat, hgplat,
    setWidth_getLsbD_low v hi]

theorem next_read_gpio_of_not_driven (h : FileWrite s t 6#5 v) (hnow : t.now = s.now + 1) {i : Nat}
    (hi : i < 4) (hdriven : ¬ pinDriven s i = true) :
    (readFile 6#5 (nextState n t)).getLsbD i =
      if s.option.getLsbD 6 = false ∧ i ≠ 2 ∧
          (Config.outsideDrives (s.now + 1)).getLsbD i = false
        then true else (Config.pinLevels (s.now + 1)).getLsbD i := by
  rw [readFile_gpio_of_not_driven hi (by rwa [pinDriven_nextState h]), nextState_option,
    nextState_now, h.option, hnow]

end NextRead

/-- Settles O44: MOVWF writes W at its effective address, and what the next instruction reads there is
said register by register above. -/
theorem readBackAfterMovwf : Obligations.ReadBackAfterMovwf := by
  intro f s
  obtain ⟨-, -, t, hexec, hwrite, hstatus, hnow⟩ := clrfAndMovwfStore f s
  refine ⟨t, hexec, ?_⟩
  generalize effAddr f s = a at *
  refine ⟨?indf, ?tmr0, ?pcl, ?status, ?fsr, ?osccal, ?gpio, ?cmcon0, ?noComparator, ?unimplemented,
    ?gpr⟩
  case indf => rintro rfl; rfl
  case tmr0 =>
    rintro rfl
    have hone : t.now - s.now = 1 := by rw [hnow]; exact Nat.add_sub_cancel_left _ _
    rw [hone]
    exact next_read_tmr0 hwrite hnow
  case pcl => rintro rfl; exact next_read_pcl hwrite
  case status =>
    rintro rfl i hi
    have hread : readFile 3#5 (nextState (t.now - s.now) t) = t.status := nextState_status
    refine (congrArg (BitVec.getLsbD · i) hread).trans ((hstatus i hi).trans ?_)
    simp only [noFlags]
    grind
  case fsr => rintro rfl; exact next_read_fsr hwrite
  case osccal => rintro rfl; exact next_read_osccal hwrite
  case gpio =>
    rintro rfl i
    refine ⟨fun hi htris hgp2 => ?driven, fun hi hundriven => ?undriven, fun hi => ?high⟩
    case driven =>
      refine next_read_gpio_of_driven hwrite (by omega) (pinDriven_iff.mpr ⟨htris, by omega, ?_⟩)
      rw [gp2Overridden_iff]
      grind
    case undriven =>
      exact next_read_gpio_of_not_driven hwrite hnow hi (not_pinDriven_of_undriven hundriven)
    case high => exact readFile_gpio_high hi
  case cmcon0 => rintro rfl hcomparator; exact next_read_cmcon0 hwrite hcomparator hnow
  case noComparator =>
    rintro rfl hcomparator
    have hparams : (nextState (t.now - s.now) t).params = s.params :=
      nextState_params.trans hwrite.params
    exact readFile_no_comparator _ (hparams ▸ hcomparator)
  case unimplemented => exact readFile_unimplemented
  case gpr => exact next_read_gpr hwrite

end Sys2Proof.Machine
end
